-- ==== Sys2Proof/Word.lean ====
section
/-! DEFINITION. The command word and the plain value types of the block. -/

namespace Sys2Proof

/-- One command on the `CMD` port (30_encoding R100). -/
abbrev Word := BitVec 32

/-- A carrier, glide or LFO frequency (00_scope R9), held as an exact rational.
DESIGN CHOICE (log 3, safe): every realisation's frequencies are rationals, and its rounding is the
uninterpreted FREQ_ROUND of Config. -/
abbrev Freq := Rat

/-- An oscillator or LFO phase (10_state R36, R46).
DESIGN CHOICE (log 4, safe): the spec leaves the type open, and the model codes its values as natural numbers. -/
abbrev Phase := Nat

/-- The memory of one low-pass filter instance (10_state R37).
DESIGN CHOICE (log 4, safe): coded as a natural number, as `Phase` is. -/
abbrev FilterState := Nat

/-- Why a word selects no row of the opcode map: the four ways 30_encoding R112 lists. -/
inductive Reserved where
  /-- `OP` is none of 0x0, 0x8, 0x9, 0xB, 0xE. -/
  | op
  /-- Format S with `SUB` outside 0x01..0x03 or with one of bits 27..8 set. -/
  | strobe
  /-- Format N or C with bit 23, bit 15 or one of bits 7..0 set. -/
  | message
  /-- Format B with one of bits 23..14 set. -/
  | bend
  deriving DecidableEq, Repr

end Sys2Proof
end

