-- ==== Sys2Proof/Syntax.lean ====
section
/-! DEFINITION. The commands of the block, one constructor per row of the opcode map (30_encoding R109). -/

namespace Sys2Proof

/-- A command with its operand fields (30_encoding R105 to R108).
`ch` is the channel field, which no rule of the block reads (R108). -/
inductive Instr where
  /-- CTICK: the control tick (46_scheduler R310). -/
  | ctick
  /-- ATICK: the audio tick (45_audio_renderer R290). -/
  | atick
  /-- RESET (70_reset_and_hazards R380). -/
  | reset
  /-- NOTEOFF (41_voice_allocator R178). -/
  | noteOff (ch : BitVec 4) (note vel : BitVec 7)
  /-- NOTEON (41_voice_allocator R170). -/
  | noteOn (ch : BitVec 4) (note vel : BitVec 7)
  /-- CC.MOD, controller 1 (44_lfo_filter R266). -/
  | ccMod (ch : BitVec 4) (val : BitVec 7)
  /-- CC.PORTA, controller 5 (42_pitch_bend_portamento R203). -/
  | ccPorta (ch : BitVec 4) (val : BitVec 7)
  /-- CC.VOL, controller 7 (45_audio_renderer R296). -/
  | ccVol (ch : BitVec 4) (val : BitVec 7)
  /-- CC.PBRANGE, controller 20 (42_pitch_bend_portamento R204). -/
  | ccPbRange (ch : BitVec 4) (val : BitVec 7)
  /-- CC.LEARN, controller 124 (46_scheduler R332). -/
  | ccLearn (ch : BitVec 4) (val : BitVec 7)
  /-- CC.OMNI, controller 125 (46_scheduler R333). -/
  | ccOmni (ch : BitVec 4) (val : BitVec 7)
  /-- CC.OTHER, any other controller `ctl` (46_scheduler R334). -/
  | ccOther (ch : BitVec 4) (ctl val : BitVec 7)
  /-- BEND with its 14-bit two's complement value (42_pitch_bend_portamento R201). -/
  | bend (ch : BitVec 4) (value : BitVec 14)
  deriving DecidableEq, Repr

end Sys2Proof
end

