-- ==== Sys2Proof/WellFormed.lean ====
section
/-! DEFINITION. Which terms of `Instr` are commands. -/

namespace Sys2Proof

/-- The controller numbers that have a row of their own (30_encoding R110). -/
def recognisedControllers : List (BitVec 7) := [1, 5, 7, 20, 124, 125]

/-- A command is well formed when a word spells it.
The field types already hold every operand in its range (30_encoding R108), so the one check is that
CC.OTHER does not name a controller of another row (30_encoding R111). -/
def Instr.wf : Instr → Bool
  | .ctick | .atick | .reset | .noteOff .. | .noteOn .. => true
  | .ccMod .. | .ccPorta .. | .ccVol .. | .ccPbRange .. | .ccLearn .. | .ccOmni .. => true
  | .ccOther _ ctl _ => !(recognisedControllers.contains ctl)
  | .bend .. => true

end Sys2Proof
end

