-- ==== Sys2Proof/Decode.lean ====
section
/-! DEFINITION. The opcode map, the decoder, the encoder and the assembler's operand checks (30_encoding). -/

namespace Sys2Proof

/-- A row of the opcode map: `w` selects it when `w & mask == pattern` (30_encoding R109). -/
structure OpRow where
  pattern : Word
  mask : Word
  deriving DecidableEq, Repr

def OpRow.selects (r : OpRow) (w : Word) : Bool := w &&& r.mask == r.pattern

def rowCtick : OpRow := ⟨0x00000001, 0xFFFFFFFF⟩
def rowAtick : OpRow := ⟨0x00000002, 0xFFFFFFFF⟩
def rowReset : OpRow := ⟨0x00000003, 0xFFFFFFFF⟩
def rowNoteOff : OpRow := ⟨0x80000000, 0xF08080FF⟩
def rowNoteOn : OpRow := ⟨0x90000000, 0xF08080FF⟩
def rowCcMod : OpRow := ⟨0xB0010000, 0xF0FF80FF⟩
def rowCcPorta : OpRow := ⟨0xB0050000, 0xF0FF80FF⟩
def rowCcVol : OpRow := ⟨0xB0070000, 0xF0FF80FF⟩
def rowCcPbRange : OpRow := ⟨0xB0140000, 0xF0FF80FF⟩
def rowCcLearn : OpRow := ⟨0xB07C0000, 0xF0FF80FF⟩
def rowCcOmni : OpRow := ⟨0xB07D0000, 0xF0FF80FF⟩
def rowCcOther : OpRow := ⟨0xB0000000, 0xF08080FF⟩
def rowBend : OpRow := ⟨0xE0000000, 0xF0FFC000⟩

/-- Every row but CC.OTHER, the one row that overlaps others (30_encoding R111). -/
def exactRows : List OpRow :=
  [rowCtick, rowAtick, rowReset, rowNoteOff, rowNoteOn, rowCcMod, rowCcPorta, rowCcVol, rowCcPbRange,
    rowCcLearn, rowCcOmni, rowBend]

/-! The fields of a word (30_encoding R101, R102, R105 to R107). -/

def opField (w : Word) : BitVec 4 := w.extractLsb' 28 4
def subField (w : Word) : BitVec 8 := w.extractLsb' 0 8
def chField (w : Word) : BitVec 4 := w.extractLsb' 24 4
/-- `NOTE` of format N and `CTL` of format C: bits 22..16. -/
def noteField (w : Word) : BitVec 7 := w.extractLsb' 16 7
/-- `VEL` of format N and `VAL` of format C: bits 14..8. -/
def valField (w : Word) : BitVec 7 := w.extractLsb' 8 7
def bendField (w : Word) : BitVec 14 := w.extractLsb' 0 14

/-- Which of the ways of 30_encoding R112 makes a word that selects no row reserved. -/
def reservedReason (w : Word) : Reserved :=
  if opField w = 0x0 then .strobe
  else if opField w = 0x8 ∨ opField w = 0x9 ∨ opField w = 0xB then .message
  else if opField w = 0xE then .bend
  else .op

/-- The command a word stands for, or why it is reserved (30_encoding R109, R111, R112).
CC.OTHER is tried after every other format C row. -/
def decode (w : Word) : Except Reserved Instr :=
  if rowCtick.selects w then .ok .ctick
  else if rowAtick.selects w then .ok .atick
  else if rowReset.selects w then .ok .reset
  else if rowNoteOff.selects w then .ok (.noteOff (chField w) (noteField w) (valField w))
  else if rowNoteOn.selects w then .ok (.noteOn (chField w) (noteField w) (valField w))
  else if rowCcMod.selects w then .ok (.ccMod (chField w) (valField w))
  else if rowCcPorta.selects w then .ok (.ccPorta (chField w) (valField w))
  else if rowCcVol.selects w then .ok (.ccVol (chField w) (valField w))
  else if rowCcPbRange.selects w then .ok (.ccPbRange (chField w) (valField w))
  else if rowCcLearn.selects w then .ok (.ccLearn (chField w) (valField w))
  else if rowCcOmni.selects w then .ok (.ccOmni (chField w) (valField w))
  else if rowCcOther.selects w then .ok (.ccOther (chField w) (noteField w) (valField w))
  else if rowBend.selects w then .ok (.bend (chField w) (bendField w))
  else .error (reservedReason w)

/-- The decoder's answer for a word numbered as the opcode table numbers its bits; the bits above `nbits` are 0.
No command is longer than one word (30_encoding R100). -/
def decodeTableWord (nbits w : Nat) : Option Instr :=
  if nbits ≤ 32 then
    match decode (BitVec.ofNat 32 (w % 2 ^ nbits)) with
    | .ok i => some i
    | .error _ => none
  else none

/-! The encoder, from the format tables. -/

/-- Format S (30_encoding R102). -/
def formatS (sub : BitVec 8) : Word := 0x0#4 ++ 0#20 ++ sub

/-- Formats N and C (30_encoding R105, R106): `mid` is `NOTE` or `CTL`, `low` is `VEL` or `VAL`. -/
def formatNC (op ch : BitVec 4) (mid low : BitVec 7) : Word := op ++ ch ++ 0#1 ++ mid ++ 0#1 ++ low ++ 0#8

/-- Format B (30_encoding R107). -/
def formatB (ch : BitVec 4) (value : BitVec 14) : Word := 0xE#4 ++ ch ++ 0#10 ++ value

/-- The word of a command (30_encoding R102, R105 to R107, R110). -/
def encode : Instr → Word
  | .ctick => formatS 0x01
  | .atick => formatS 0x02
  | .reset => formatS 0x03
  | .noteOff ch note vel => formatNC 0x8 ch note vel
  | .noteOn ch note vel => formatNC 0x9 ch note vel
  | .ccMod ch val => formatNC 0xB ch 1 val
  | .ccPorta ch val => formatNC 0xB ch 5 val
  | .ccVol ch val => formatNC 0xB ch 7 val
  | .ccPbRange ch val => formatNC 0xB ch 20 val
  | .ccLearn ch val => formatNC 0xB ch 124 val
  | .ccOmni ch val => formatNC 0xB ch 125 val
  | .ccOther ch ctl val => formatNC 0xB ch ctl val
  | .bend ch value => formatB ch value

/-! The assembler (30_encoding R114, R116): an operand outside its field's range spells no command. -/

/-- An unsigned operand of `n` bits. -/
def asmField (n : Nat) (x : Int) : Option (BitVec n) :=
  if 0 ≤ x ∧ x < 2 ^ n then some (BitVec.ofInt n x) else none

/-- The command of `CC ch, ctl, val`: the controller's own row, or CC.OTHER (30_encoding R110, R111). -/
def controllerInstr (ch : BitVec 4) (ctl val : BitVec 7) : Instr :=
  if ctl = 1 then .ccMod ch val
  else if ctl = 5 then .ccPorta ch val
  else if ctl = 7 then .ccVol ch val
  else if ctl = 20 then .ccPbRange ch val
  else if ctl = 124 then .ccLearn ch val
  else if ctl = 125 then .ccOmni ch val
  else .ccOther ch ctl val

def asmNoteOn (ch note vel : Int) : Option Instr := do
  return .noteOn (← asmField 4 ch) (← asmField 7 note) (← asmField 7 vel)

def asmNoteOff (ch note vel : Int) : Option Instr := do
  return .noteOff (← asmField 4 ch) (← asmField 7 note) (← asmField 7 vel)

def asmCC (ch ctl val : Int) : Option Instr := do
  return controllerInstr (← asmField 4 ch) (← asmField 7 ctl) (← asmField 7 val)

def asmBend (ch value : Int) : Option Instr := do
  let c ← asmField 4 ch
  if -8192 ≤ value ∧ value ≤ 8191 then some (.bend c (BitVec.ofInt 14 value)) else none

/-- One line of the assembly syntax, with its operands as written (30_encoding R114), or a pseudo-command (R116).
DEDUCED (log 17, safe): the text of a line is not parsed. -/
inductive AsmLine where
  | ctick
  | atick
  | reset
  | noteOn (ch note vel : Int)
  | noteOff (ch note vel : Int)
  | cc (ch ctl val : Int)
  | bend (ch value : Int)
  | ccMod (ch v : Int)
  | ccPorta (ch v : Int)
  | portaOff (ch : Int)
  | ccVol (ch v : Int)
  | ccPbRange (ch v : Int)
  | ccLearn (ch v : Int)
  | ccOmni (ch v : Int)
  | noteOff0 (ch note : Int)
  | bendCenter (ch : Int)
  | cycle8
  deriving DecidableEq, Repr

/-- The commands a line spells, or none where it is an assembly error (30_encoding R114, R116). -/
def AsmLine.assemble : AsmLine → Option (List Instr)
  | .ctick => some [.ctick]
  | .atick => some [.atick]
  | .reset => some [.reset]
  | .noteOn ch note vel => (asmNoteOn ch note vel).map ([·])
  | .noteOff ch note vel => (asmNoteOff ch note vel).map ([·])
  | .cc ch ctl val => (asmCC ch ctl val).map ([·])
  | .bend ch value => (asmBend ch value).map ([·])
  | .ccMod ch v => (asmCC ch 1 v).map ([·])
  | .ccPorta ch v => (asmCC ch 5 v).map ([·])
  | .portaOff ch => (asmCC ch 5 0).map ([·])
  | .ccVol ch v => (asmCC ch 7 v).map ([·])
  | .ccPbRange ch v => (asmCC ch 20 v).map ([·])
  | .ccLearn ch v => (asmCC ch 124 v).map ([·])
  | .ccOmni ch v => (asmCC ch 125 v).map ([·])
  | .noteOff0 ch note => (asmNoteOn ch note 0).map ([·])
  | .bendCenter ch => (asmBend ch 0).map ([·])
  | .cycle8 => some (List.replicate 8 .ctick)

/-- The words a line encodes. -/
def AsmLine.words (l : AsmLine) : Option (List Word) := l.assemble.map (·.map encode)

end Sys2Proof
end

