-- ==== Sys2Proof/Config.lean ====
section
/-! DEFINITION. The OPEN parameters of the block (00_scope R8) and its uninterpreted functions (00_scope R12). -/

namespace Sys2Proof

/-- What an implementation fixes and the source does not give (00_scope R8, R12).
Each field is raw: the parameter itself, with the domain the spec gives it, is the function of the
same rule in Machine/Params.lean, whose values over all raw fields are exactly the admissible ones
(log 2). -/
structure Config where
  /-- `CONTROL_RATE_HZ - 1`. -/
  controlRatePred : Nat
  /-- `AUDIO_RATE_HZ - CONTROL_RATE_HZ - 1`. -/
  audioRateExtra : Nat
  /-- `AUDIO_PER_CONTROL` (60_exceptions R356). -/
  audioPerControl : Nat
  /-- `MIDI_PER_TICK` (46_scheduler R316): `some n` for `n + 1` events, `none` for `ALL`. The spec's default is 1. -/
  midiPerTickPred : Option Nat := some 0
  /-- `SUSTAIN_MS - 1`. -/
  sustainPred : Nat
  /-- `KEY_TARGET_LEVEL`. -/
  keyTargetLevel : BitVec 8
  /-- `MTOF`, before the restriction to non-negative frequencies. -/
  mtofRaw : BitVec 7 → Rat
  /-- `KEY_FREQ` of an octave and a key, before that restriction. -/
  keyFreqRaw : Nat → Fin 13 → Rat
  /-- `PBMAX`, before the restriction to non-negative values. -/
  pbMaxRaw : Fin 13 → Rat
  /-- `PBMIN`, before the restriction to 0..1. -/
  pbMinRaw : Fin 13 → Rat
  /-- `FREQ_ROUND`, before the restriction to non-negative frequencies. -/
  freqRoundRaw : Rat → Rat
  /-- `OSC_STEP` of a waveform, a phase and a frequency: the next phase and a signed sample. -/
  oscStep : Nat → Phase → Freq → Phase × BitVec 8
  /-- `OSC_PHASE_RESET`. -/
  oscPhaseReset : Phase
  /-- `LFO_STEP` of an LFO waveform, a phase and a frequency: the next phase and a signed sample. -/
  lfoStep : Nat → Phase → Freq → Phase × BitVec 8
  /-- `LFO_FREQ`, before the restriction to non-negative frequencies. -/
  lfoFreqRaw : Int → Rat
  /-- `LFO_PHASE_RESET`. -/
  lfoPhaseReset : Phase
  /-- `CNT_BITS` beyond the least width that holds every tick count. -/
  cntSlack : Nat
  /-- `FILT_BITS - 1`. -/
  filtPred : Nat
  /-- `LPF_STEP` of a filter state, a cutoff, the resonance and a signed sample: the next filter state and the
  pattern of the output sample, before it is cut to `FILT_BITS` bits. -/
  lpfStepRaw : FilterState → Nat → Nat → BitVec 8 → FilterState × Nat
  /-- `LPF_STATE_RESET`. -/
  lpfStateReset : FilterState
  /-- `RESONANCE`. -/
  resonance : Nat
  /-- `OUT_SHIFT`. -/
  outShift : Nat
  /-- `OUT_BITS - 1`. -/
  outPred : Nat
  /-- `MAP[i]` where the model supplies its own (46_scheduler R320), before its values are cut to the declared output
  range. The spec's default is none: the linear map. -/
  mapOwn : Fin 8 → Option (BitVec 10 → Int) := fun _ => none
  /-- `OUT_LO[0]`, the least cutoff. -/
  cutoffLo : Nat
  /-- `OUT_HI[0] - OUT_LO[0]`. -/
  cutoffSpan : Nat
  /-- `CUTOFF_MAX - OUT_HI[0]`. -/
  cutoffSlack : Nat
  /-- `OUT_LO[3]`, the least attack time. -/
  attackLo : Nat
  /-- `OUT_HI[3] - OUT_LO[3]`. -/
  attackSpan : Nat
  /-- `OUT_LO[4]`, the least release time. -/
  releaseLo : Nat
  /-- `OUT_HI[4] - OUT_LO[4]`. -/
  releaseSpan : Nat
  /-- `OUT_LO[6]`, the least LFO speed. -/
  speedLo : Int
  /-- `OUT_HI[6] - OUT_LO[6]`. -/
  speedSpan : Nat
  deriving Inhabited

/-- The parameters of the block being modelled: an opaque constant, so no proof can see a value of it, and a
theorem about `step` holds for every admissible value (00_scope R8, R12). -/
opaque Config.block : Config

end Sys2Proof
end

