-- ==== Sys2Proof/Machine/Params.lean ====
section
/-! DEFINITION. The parameters of the block (00_scope R8): each OPEN one in the domain the spec gives it, each
decided one at its value.
DESIGN CHOICE (log 5, unsafe for a block with another value): a parameter to which R8 gives a value, and of which the
spec does not make an argument, stands at it. -/

namespace Sys2Proof.Machine

/-! ## Rates and durations -/

def controlRateHz (c : Config) : Nat := c.controlRatePred + 1

/-- Above `controlRateHz`; no rule reads it (00_scope R10). -/
def audioRateHz (c : Config) : Nat := controlRateHz c + c.audioRateExtra + 1

/-- Control ticks of a duration (00_scope R10). -/
def ticks (c : Config) (ms : Nat) : Nat := ms * controlRateHz c / 1000

def decayMs : Nat := 100
def sustainMs (c : Config) : Nat := c.sustainPred + 1
def portaTimeMaxMs : Nat := 1000

/-- How many events one control tick may dispatch (00_scope R8). -/
inductive PerTick where
  | count (n : Nat)
  | all
  deriving DecidableEq, Repr

/-- `MIDI_PER_TICK` (46_scheduler R316): a positive number of events, or `ALL`. -/
def midiPerTick (c : Config) : PerTick :=
  match c.midiPerTickPred with
  | some n => .count (n + 1)
  | none => .all

/-! ## Levels and switches -/

def keyTargetLevel (c : Config) : Nat := c.keyTargetLevel.toNat
def envAttackFromZero : Bool := false
def applyBendOnNote : Bool := true
def volumeReset : BitVec 7 := 127
def pbRangeReset : Fin 13 := 2

/-! ## Frequencies (00_scope R9): non-negative rationals -/

/-- `x` where it is not negative, else 0: the restriction of a raw value to the non-negative ones. -/
def nonneg (x : Rat) : Rat := if x < 0 then 0 else x

def freqRound (c : Config) (x : Rat) : Freq := nonneg (c.freqRoundRaw x)
def mtof (c : Config) (note : BitVec 7) : Freq := nonneg (c.mtofRaw note)
def keyFreq (c : Config) (octave : Nat) (key : Fin 13) : Freq := nonneg (c.keyFreqRaw octave key)
def lfoFreq (c : Config) (speed : Int) : Freq := nonneg (c.lfoFreqRaw speed)
def glideResetFreq : Freq := 0

/-- `PBMAX[k] >= 0` (42_pitch_bend_portamento R200). -/
def pbMax (c : Config) (k : Fin 13) : Rat := nonneg (c.pbMaxRaw k)

/-- `0 <= PBMIN[k] <= 1` (42_pitch_bend_portamento R200). -/
def pbMin (c : Config) (k : Fin 13) : Rat := if 1 < c.pbMinRaw k then 1 else nonneg (c.pbMinRaw k)

/-! ## Sample widths -/

/-- `OSC_BITS`, the width of an oscillator sample in Config. -/
def oscBits : Nat := 8
def filtBits (c : Config) : Nat := c.filtPred + 1

/-- `LPF_STEP` (45_audio_renderer R291): the next filter state and a signed sample of `FILT_BITS` bits. -/
def lpfStep (c : Config) (st : FilterState) (cutoff resonance : Nat) (s : BitVec 8) :
    FilterState × BitVec (filtBits c) :=
  let r := c.lpfStepRaw st cutoff resonance s
  (r.1, BitVec.ofNat (filtBits c) r.2)

def outBits (c : Config) : Nat := c.outPred + 1

/-! ## The eight analog parameters (00_scope R8, 46_scheduler R321) -/

def inLo (_ : Fin 8) : Int := 0
def inHi (_ : Fin 8) : Int := 1023

/-- `OUT_LO[i]`. -/
def outLo (c : Config) (i : Fin 8) : Int :=
  match i.val with
  | 0 => c.cutoffLo
  | 1 => 1
  | 2 => 0
  | 3 => c.attackLo
  | 4 => c.releaseLo
  | 5 => 1
  | 6 => c.speedLo
  | _ => 1

/-- `OUT_HI[i]`. -/
def outHi (c : Config) (i : Fin 8) : Int :=
  match i.val with
  | 0 => c.cutoffLo + c.cutoffSpan
  | 1 => 4
  | 2 => 3
  | 3 => c.attackLo + c.attackSpan
  | 4 => c.releaseLo + c.releaseSpan
  | 5 => 4
  | 6 => c.speedLo + c.speedSpan
  | _ => 256

/-- `PARAM_RESET[i]`. -/
def paramReset (c : Config) (i : Fin 8) : Int := outLo c i

/-- `CUTOFF_MAX`. -/
def cutoffMax (c : Config) : Nat := c.cutoffLo + c.cutoffSpan + c.cutoffSlack

/-- The largest tick count any rule computes: a stage length or a glide length. -/
def maxTicks (c : Config) : Nat :=
  max (max (max (ticks c (c.attackLo + c.attackSpan)) (ticks c decayMs))
    (max (ticks c (sustainMs c)) (ticks c (c.releaseLo + c.releaseSpan)))) (ticks c portaTimeMaxMs)

/-- `CNT_BITS`, which holds the largest tick count (DEDUCED, log 13, safe). -/
def cntBits (c : Config) : Nat := (maxTicks c).log2 + 1 + c.cntSlack

end Sys2Proof.Machine
end

