-- ==== Sys2Proof/Machine/State.lean ====
section
/-! DEFINITION. The state of the block and of its environment, and the reset state (10_state, 20_memory). -/

namespace Sys2Proof.Machine

/-- The two voices (10_state R32, 00_scope R16). -/
inductive VoiceNo where
  | one
  | two
  deriving DecidableEq, Repr

/-- The envelope stages, coded 0..4 in this order (10_state R38). -/
inductive Stage where
  | idle
  | attack
  | decay
  | sustain
  | release
  deriving DecidableEq, Repr

/-- One envelope generator (10_state R38); `level` is also the voice's gain (R39). -/
structure Env where
  stage : Stage
  level : Nat
  attackLevel : Nat
  decayLevel : Nat
  start : Nat
  target : Nat
  k : Nat
  len : Nat
  deriving DecidableEq, Repr

/-- One voice's registers (10_state R33 to R38).
`oscFreq` and `env.level` are the working copies of shared registers; `oscPhase` and `lpfState` belong to the
audio tick (20_memory R85). -/
structure Voice where
  noteId : BitVec 8
  baseFreq : Freq
  oscFreq : Freq
  oscPhase : Phase
  lpfState : FilterState
  env : Env
  deriving DecidableEq, Repr

/-- The sentinel of an unoccupied voice (10_state R33). -/
def noNote : BitVec 8 := 129

/-- One key's history, latched state and availability (10_state R43). -/
structure Key where
  a : Bool
  b : Bool
  c : Bool
  z : Bool
  avail : Bool
  deriving DecidableEq, Repr

/-- One copy of the seven shared registers (20_memory R82). -/
structure Shared where
  oscFreq1 : Freq
  oscFreq2 : Freq
  level1 : Nat
  level2 : Nat
  cutoff : Nat
  waveSel : Nat
  volume : BitVec 7
  deriving DecidableEq, Repr

/-- The block's registers (10_state section 12).
DESIGN CHOICE (log 12): numbers, with their domains as the invariant `State.Ok`. -/
structure Block where
  idx : Fin 8
  voice1 : Voice
  voice2 : Voice
  waveSel : Nat
  mostRecentVoice : VoiceNo
  volume : BitVec 7
  keys : Vector Key 13
  baseCutoff : Nat
  octave : Nat
  attackMs : Nat
  releaseMs : Nat
  lfoWave : Nat
  lfoSpeed : Int
  lfoDepth : Nat
  lfoPhase : Phase
  cutoff : Nat
  bend : BitVec 14
  pbRange : Fin 13
  ratio : Rat
  portaOn : Bool
  portaMs : Nat
  glideFrom : Freq
  glideTo : Freq
  glideOut : Freq
  glideK : Nat
  glideLen : Nat
  committed : Shared
  deriving DecidableEq, Repr

/-- A decoded event word waiting in `EVQ` (10_state R72): the operands of a format N, C or B command.
DESIGN CHOICE (log 6, safe): the queue holds the fields of each word, from which `Event.word` gives the word
back. -/
inductive Event where
  | noteOff (ch : BitVec 4) (note vel : BitVec 7)
  | noteOn (ch : BitVec 4) (note vel : BitVec 7)
  | ccMod (ch : BitVec 4) (val : BitVec 7)
  | ccPorta (ch : BitVec 4) (val : BitVec 7)
  | ccVol (ch : BitVec 4) (val : BitVec 7)
  | ccPbRange (ch : BitVec 4) (val : BitVec 7)
  | ccLearn (ch : BitVec 4) (val : BitVec 7)
  | ccOmni (ch : BitVec 4) (val : BitVec 7)
  | ccOther (ch : BitVec 4) (ctl val : BitVec 7)
  | bend (ch : BitVec 4) (value : BitVec 14)
  deriving DecidableEq, Repr

/-- The values on the input ports (10_state R70): `ADC(i)` is `adc[i]`, `KEY(k)` is bit `k` of `keys`
(30_encoding R115). -/
structure Ports where
  adc : Vector (BitVec 10) 8
  keys : BitVec 13
  deriving DecidableEq, Repr

/-- A command word the environment presents, with the port values that stand while it is executed
(00_scope R11). -/
structure Presented where
  word : Word
  ports : Ports
  deriving DecidableEq, Repr

/-- The block and its environment (60_exceptions R367, R368).
DESIGN CHOICE (log 1, safe): the environment's future inputs are the list `cmd`, oldest first.
DESIGN CHOICE (log 7, safe): `samples` is every `OUT` sample produced so far, oldest first. -/
structure State where
  blk : Block
  evq : List Event
  ports : Ports
  cmd : List Presented
  samples : List Int
  deriving DecidableEq, Repr

/-- No command faults and the block has no stuck state (60_exceptions R350, R360), so nothing raises a fault:
the type has no constructor (DEDUCED, log 16, safe). -/
inductive Fault where
  deriving DecidableEq, Repr

/-- The model's refusals (60_exceptions R350 names the last two and no others; DEDUCED, log 11, safe). -/
inductive Refusal where
  /-- An instruction without a meaning, raised by its arm of `exec` only; safe. -/
  | notModelled (mnemonic : String)
  /-- A reserved command word, raised by `step` (30_encoding R112); safe, as the rule says. -/
  | reservedEncoding (why : Reserved)
  /-- An audio sample that does not fit `OUT_BITS`, raised by ATICK (45_audio_renderer R297); safe. -/
  | outputOutOfRange
  deriving DecidableEq, Repr

/-- 10_state R38. -/
def Env.reset : Env :=
  { stage := .idle, level := 0, attackLevel := 0, decayLevel := 0, start := 0, target := 0, k := 0, len := 0 }

/-- 10_state R33 to R38. -/
def Voice.reset (c : Config) : Voice :=
  { noteId := noNote, baseFreq := freqRound c 0, oscFreq := freqRound c 0, oscPhase := c.oscPhaseReset,
    lpfState := c.lpfStateReset, env := Env.reset }

/-- 10_state R43. -/
def Key.reset : Key := { a := false, b := false, c := false, z := false, avail := true }

/-- The shared registers' reset values (20_memory R83, 10_state section 12). -/
def Shared.reset (c : Config) : Shared :=
  { oscFreq1 := freqRound c 0, oscFreq2 := freqRound c 0, level1 := 0, level2 := 0,
    cutoff := (paramReset c 0).toNat, waveSel := (paramReset c 1).toNat, volume := volumeReset }

/-- Every register at its reset value (70_reset_and_hazards R380, 10_state section 12). -/
def Block.reset (c : Config) : Block :=
  { idx := 0, voice1 := Voice.reset c, voice2 := Voice.reset c, waveSel := (paramReset c 1).toNat,
    mostRecentVoice := .one, volume := volumeReset, keys := Vector.replicate 13 Key.reset,
    baseCutoff := (paramReset c 0).toNat, octave := (paramReset c 2).toNat,
    attackMs := (paramReset c 3).toNat, releaseMs := (paramReset c 4).toNat,
    lfoWave := (paramReset c 5).toNat, lfoSpeed := paramReset c 6, lfoDepth := (paramReset c 7).toNat,
    lfoPhase := c.lfoPhaseReset, cutoff := (paramReset c 0).toNat, bend := 0, pbRange := pbRangeReset, ratio := 1,
    portaOn := false, portaMs := 0, glideFrom := glideResetFreq, glideTo := glideResetFreq,
    glideOut := glideResetFreq, glideK := 0, glideLen := 0, committed := Shared.reset c }

/-- The input ports before the environment has presented anything.
DESIGN CHOICE (log 9): no step reads these values, since every presented command brings its own. -/
def Ports.reset : Ports := { adc := Vector.replicate 8 0, keys := 0 }

/-- Power-on (70_reset_and_hazards R382) under the shared launch premise (R386): the reset state, `EVQ` empty
(log 8), nothing presented and no sample produced (logs 1, 7). -/
def State.reset : State :=
  { blk := Block.reset Config.block, evq := [], ports := Ports.reset, cmd := [], samples := [] }

end Sys2Proof.Machine
end

