-- ==== Sys2Proof/Machine/Operands.lean ====
section
/-! DEFINITION. Operand assembly and the integer arithmetic of the rules (00_scope R13, R14; 30_encoding R108). -/

namespace Sys2Proof.Machine

/-- `zext_N` of a field (00_scope R14). -/
def zext (v : BitVec n) : Nat := v.toNat

/-- `sext_N` of a field (00_scope R14). -/
def sext (v : BitVec n) : Int := v.toInt

/-- `a >> n` on integers: the floor of `a / 2^n` (00_scope R13). -/
def asr (a : Int) (n : Nat) : Int := a / 2 ^ n

/-- `a >> n` on non-negative integers. -/
def shr (a n : Nat) : Nat := a / 2 ^ n

/-- `clamp(x, lo, hi)` (00_scope R13). -/
def clamp (x lo hi : Int) : Int := min (max x lo) hi

/-- Division truncated toward zero, the `/` of 00_scope R13. -/
def truncDiv (a b : Int) : Int := a.tdiv b

/-- The identity a MIDI note stores in `noteId` (10_state R33). -/
def midiId (note : BitVec 7) : BitVec 8 := note.setWidth 8

/-- The identity a key stores in `noteId` (10_state R33). -/
def keyId (k : Fin 13) : BitVec 8 := BitVec.ofNat 8 k.val

/-- The default `MAP[i](x)`: clamp to the input domain, then the linear map with floor rounding (46_scheduler R320). -/
def defaultMap (c : Config) (i : Fin 8) (x : BitVec 10) : Int :=
  outLo c i
    + (clamp (zext x) (inLo i) (inHi i) - inLo i) * (outHi c i - outLo c i) / (inHi i - inLo i)

/-- `MAP[i](x)`: the model's own map, into the declared output range, where it supplies one, else the default
(46_scheduler R320). -/
def mapParam (c : Config) (i : Fin 8) (x : BitVec 10) : Int :=
  match c.mapOwn i with
  | some f => clamp (f x) (outLo c i) (outHi c i)
  | none => defaultMap c i x

/-- The command an event stands for. -/
def Event.toInstr : Event → Instr
  | .noteOff ch note vel => .noteOff ch note vel
  | .noteOn ch note vel => .noteOn ch note vel
  | .ccMod ch val => .ccMod ch val
  | .ccPorta ch val => .ccPorta ch val
  | .ccVol ch val => .ccVol ch val
  | .ccPbRange ch val => .ccPbRange ch val
  | .ccLearn ch val => .ccLearn ch val
  | .ccOmni ch val => .ccOmni ch val
  | .ccOther ch ctl val => .ccOther ch ctl val
  | .bend ch value => .bend ch value

/-- The event word that stands in `EVQ` (30_encoding R104). -/
def Event.word (e : Event) : Word := encode e.toInstr

end Sys2Proof.Machine
end

