-- ==== Sys2Proof/Machine/Ops.lean ====
section
/-! DEFINITION. The named operations over the registers, the queue and the ports. The block has no memory
(20_memory R80) and takes no exception (60_exceptions R350, R361), so there is no operation for either. -/

namespace Sys2Proof.Machine

/-- `st.voice[v]` (00_scope R15). -/
def Block.voice (b : Block) : VoiceNo → Voice
  | .one => b.voice1
  | .two => b.voice2

def Block.setVoice (b : Block) (v : VoiceNo) (x : Voice) : Block :=
  match v with
  | .one => { b with voice1 := x }
  | .two => { b with voice2 := x }

/-- Write a voice's envelope. -/
def Block.setEnv (b : Block) (v : VoiceNo) (e : Env) : Block :=
  b.setVoice v { b.voice v with env := e }

/-- Write a voice's oscillator frequency (working copy). -/
def Block.setOscFreq (b : Block) (v : VoiceNo) (f : Freq) : Block :=
  b.setVoice v { b.voice v with oscFreq := f }

/-- Write a voice's identity slot. -/
def Block.setNoteId (b : Block) (v : VoiceNo) (id : BitVec 8) : Block :=
  b.setVoice v { b.voice v with noteId := id }

/-- A voice is occupied when its `noteId` is not the sentinel (41_voice_allocator R175). -/
def Block.occupied (b : Block) (v : VoiceNo) : Bool := (b.voice v).noteId != noNote

/-- `st.key[k]` (00_scope R15). -/
def Block.key (b : Block) (k : Fin 13) : Key := b.keys[k]

def Block.setKey (b : Block) (k : Fin 13) (x : Key) : Block := { b with keys := b.keys.set k x }

/-- The working copy of the shared registers (20_memory R82). -/
def Block.shared (b : Block) : Shared :=
  { oscFreq1 := b.voice1.oscFreq, oscFreq2 := b.voice2.oscFreq, level1 := b.voice1.env.level,
    level2 := b.voice2.env.level, cutoff := b.cutoff, waveSel := b.waveSel, volume := b.volume }

/-- `commit()`: all seven shared registers at once (20_memory R83). -/
def Block.commit (b : Block) : Block := { b with committed := b.shared }

/-- `ADC(i)` (10_state R70, R71). -/
def Ports.adcAt (p : Ports) (i : Fin 8) : BitVec 10 := p.adc[i]

/-- `KEY(k)` (10_state R70). -/
def Ports.keyAt (p : Ports) (k : Fin 13) : Bool := p.keys.getLsbD k.val

/-- Append an event word to the tail of `EVQ` (30_encoding R104), which is unbounded (10_state R72; DEDUCED, log 10,
unsafe for a transport that drops events). -/
def State.enqueue (s : State) (e : Event) : State := { s with evq := s.evq ++ [e] }

/-- Take the next command: its port values stand on the ports while it is executed (00_scope R11). -/
def State.present (s : State) (p : Presented) (rest : List Presented) : State :=
  { s with ports := p.ports, cmd := rest }

/-- Give a word to the block as its next command, the port values as they stand. -/
def State.offer (s : State) (w : Word) : State :=
  { s with cmd := ⟨w, s.ports⟩ :: s.cmd }

end Sys2Proof.Machine
end

