-- ==== Sys2Proof/Machine/Envelope.lean ====
section
/-! DEFINITION. The envelope generators (43_envelope). -/

namespace Sys2Proof.Machine

/-- The stage that follows when a stage's length has elapsed (43_envelope R230). -/
def Stage.next : Stage → Stage
  | .idle => .idle
  | .attack => .decay
  | .decay => .sustain
  | .sustain => .release
  | .release => .idle

/-- The level a stage ends at (43_envelope R230). -/
def stageTarget (e : Env) : Stage → Nat
  | .idle => 0
  | .attack => e.attackLevel
  | .decay => e.decayLevel
  | .sustain => e.decayLevel
  | .release => 0

/-- A stage's length in control ticks, from the durations as they stand at its entry (43_envelope R230, R232). -/
def stageLen (c : Config) (b : Block) : Stage → Nat
  | .idle => 0
  | .attack => ticks c b.attackMs
  | .decay => ticks c decayMs
  | .sustain => ticks c (sustainMs c)
  | .release => ticks c b.releaseMs

/-- `ENTER` on an envelope (43_envelope R234). -/
def enter (c : Config) (b : Block) (e : Env) (s : Stage) : Env :=
  { e with stage := s, start := e.level, k := 0, target := stageTarget e s, len := stageLen c b s }

/-- `ENV_TRIGGER(v)` (43_envelope R231). -/
def envTrigger (c : Config) (v : VoiceNo) (b : Block) : Block :=
  let e := (b.voice v).env
  b.setEnv v (enter c b (if envAttackFromZero then { e with level := 0 } else e) .attack)

/-- `ENV_RELEASE(v)` (43_envelope R233). -/
def envRelease (c : Config) (v : VoiceNo) (b : Block) : Block :=
  b.setEnv v (enter c b (b.voice v).env .release)

/-- The level `k` ticks into a stage of `len` ticks (43_envelope R235, R236). -/
def rampLevel (start target k len : Nat) : Nat :=
  ((start : Int) + truncDiv (((target : Int) - start) * k) len).toNat

/-- One envelope's state after `ENV_TICK` (43_envelope R235). -/
def envAdvance (c : Config) (b : Block) (e : Env) : Env :=
  if e.stage = .idle then e
  else if e.len ≤ e.k + 1 then enter c b { e with k := e.k + 1, level := e.target } e.stage.next
  else { e with k := e.k + 1, level := rampLevel e.start e.target (e.k + 1) e.len }

/-- `ENV_TICK(v)` (43_envelope R235). -/
def envTick (c : Config) (v : VoiceNo) (b : Block) : Block :=
  b.setEnv v (envAdvance c b (b.voice v).env)

end Sys2Proof.Machine
end

