-- ==== Sys2Proof/Machine/Pitch.lean ====
section
/-! DEFINITION. Pitch bend and portamento (42_pitch_bend_portamento). -/

namespace Sys2Proof.Machine

/-- The bend ratio of a bend value and a range index (42_pitch_bend_portamento R200). -/
def bendRatio (c : Config) (bend : Int) (k : Fin 13) : Rat :=
  if bend = 0 then 1
  else if 0 < bend then 1 + (bend / 8192 : Rat) * pbMax c k
  else 1 + (bend / 8192 : Rat) * pbMin c k

/-- A voice's oscillator set to its base frequency times the current ratio. -/
def retune (c : Config) (v : VoiceNo) (b : Block) : Block :=
  b.setOscFreq v (freqRound c ((b.voice v).baseFreq * b.ratio))

/-- BEND when it is dispatched (42_pitch_bend_portamento R201). -/
def dispatchBend (c : Config) (value : BitVec 14) (b : Block) : Block :=
  retune c .two (retune c .one { b with bend := value, ratio := bendRatio c (sext value) b.pbRange })

/-- CC.PORTA when it is dispatched (42_pitch_bend_portamento R203). -/
def dispatchCcPorta (val : BitVec 7) (b : Block) : Block :=
  { b with portaOn := val != 0, portaMs := zext val * portaTimeMaxMs / 127 }

/-- The range index of a controller 20 value: `min(val, 12)` (42_pitch_bend_portamento R204). -/
def rangeIndex (val : BitVec 7) : Fin 13 := ⟨min (zext val) 12, by omega⟩

/-- CC.PBRANGE when it is dispatched (42_pitch_bend_portamento R204). -/
def dispatchCcPbRange (val : BitVec 7) (b : Block) : Block := { b with pbRange := rangeIndex val }

/-- `GLIDE_START(f)` (42_pitch_bend_portamento R205). -/
def glideStart (c : Config) (f : Freq) (b : Block) : Block :=
  { b with glideFrom := b.glideOut, glideTo := f, glideK := 0, glideLen := ticks c b.portaMs }

/-- `glideK` after a glide tick: one more, saturating at `glideLen` (42_pitch_bend_portamento R206). -/
def glideNextK (b : Block) : Nat := if b.glideK < b.glideLen then b.glideK + 1 else b.glideK

/-- `glideOut` after a glide tick that leaves `glideK` at `k` (42_pitch_bend_portamento R206). -/
def glideValue (c : Config) (b : Block) (k : Nat) : Freq :=
  if b.glideLen ≤ k then b.glideTo
  else freqRound c (b.glideFrom + (b.glideTo - b.glideFrom) * k / b.glideLen)

/-- `GLIDE_TICK` (42_pitch_bend_portamento R206). -/
def glideTick (c : Config) (b : Block) : Block :=
  let k := glideNextK b
  let f := glideValue c b k
  { b with glideK := k, glideOut := f }.setOscFreq .two f

/-- BEND: the word waits in `EVQ` (30_encoding R104); `dispatchBend` is what the poll runs. -/
def execBend (ch : BitVec 4) (value : BitVec 14) (s : State) : Host.Outcome State Fault Refusal :=
  .next (s.enqueue (.bend ch value))

/-- CC.PORTA: the word waits in `EVQ` (30_encoding R104); `dispatchCcPorta` is what the poll runs. -/
def execCcPorta (ch : BitVec 4) (val : BitVec 7) (s : State) : Host.Outcome State Fault Refusal :=
  .next (s.enqueue (.ccPorta ch val))

/-- CC.PBRANGE: the word waits in `EVQ` (30_encoding R104); `dispatchCcPbRange` is what the poll runs. -/
def execCcPbRange (ch : BitVec 4) (val : BitVec 7) (s : State) : Host.Outcome State Fault Refusal :=
  .next (s.enqueue (.ccPbRange ch val))

end Sys2Proof.Machine
end

