-- ==== Sys2Proof/Machine/Allocator.lean ====
section
/-! DEFINITION. The voice allocator (41_voice_allocator). -/

namespace Sys2Proof.Machine

/-- What asks for a voice: a MIDI note-on with its velocity, or a key's rising edge (41_voice_allocator R171). -/
inductive Source where
  | midi (note vel : BitVec 7)
  | key (k : Fin 13)
  deriving DecidableEq, Repr

/-- The identity stored in `noteId` (41_voice_allocator R176). -/
def Source.noteId : Source → BitVec 8
  | .midi note _ => midiId note
  | .key k => keyId k

/-- The note's base frequency, with the octave as it stands (41_voice_allocator R176). -/
def Source.freq (c : Config) (octave : Nat) : Source → Freq
  | .midi note _ => mtof c note
  | .key k => keyFreq c octave k

/-- The attack and decay target (41_voice_allocator R176). -/
def Source.level (c : Config) : Source → Nat
  | .midi _ vel => min (2 * zext vel) 255
  | .key _ => keyTargetLevel c

/-- The general rule (41_voice_allocator R173). -/
def generalVoice (b : Block) : VoiceNo :=
  if !b.occupied .one || (b.mostRecentVoice == .two && b.occupied .two) then .one else .two

/-- The voice `ALLOCATE` assigns, or none where the event is dropped (41_voice_allocator R171, R172). -/
def chooseVoice (src : Source) (b : Block) : Option VoiceNo :=
  if b.portaOn then
    match src with
    | .midi _ _ => some .two
    | .key _ => none
  else some (generalVoice b)

/-- The frequency part of `ASSIGN`: start the glide, or write the oscillator (41_voice_allocator R176). -/
def assignFreq (c : Config) (v : VoiceNo) (f : Freq) (b : Block) : Block :=
  if b.portaOn then glideStart c f b
  else b.setOscFreq v (if applyBendOnNote then freqRound c (f * b.ratio) else f)

/-- The level part of `ASSIGN` (41_voice_allocator R176). -/
def assignLevels (v : VoiceNo) (level : Nat) (b : Block) : Block :=
  b.setEnv v { (b.voice v).env with attackLevel := level, decayLevel := level }

/-- `ASSIGN(v, src, id, vel)` (41_voice_allocator R176). -/
def assign (c : Config) (v : VoiceNo) (src : Source) (b : Block) : Block :=
  let f := src.freq c b.octave
  let b1 := b.setVoice v { b.voice v with noteId := src.noteId, baseFreq := f }
  let b2 := assignFreq c v f b1
  let b3 := assignLevels v (src.level c) b2
  { envTrigger c v b3 with mostRecentVoice := v }

/-- `ALLOCATE(src, id, vel)` (41_voice_allocator R171). -/
def allocate (c : Config) (src : Source) (b : Block) : Block :=
  match chooseVoice src b with
  | some v => assign c v src b
  | none => b

/-- `KEY_NOTE_ON(k)` (41_voice_allocator R174). -/
def keyNoteOn (c : Config) (k : Fin 13) (b : Block) : Block := allocate c (.key k) b

/-- The other voice. -/
def VoiceNo.other : VoiceNo → VoiceNo
  | .one => .two
  | .two => .one

/-- One half of `NOTE_OFF`: release voice `v` where it holds `id` (41_voice_allocator R178). -/
def releaseIf (c : Config) (v : VoiceNo) (id : BitVec 8) (b : Block) : Block :=
  if (b.voice v).noteId = id then
    { (envRelease c v b).setNoteId v noNote with mostRecentVoice := v.other }
  else b

/-- `NOTE_OFF(id)`: voice 1, then voice 2 (41_voice_allocator R178, R179). -/
def noteOffId (c : Config) (id : BitVec 8) (b : Block) : Block :=
  releaseIf c .two id (releaseIf c .one id b)

/-- NOTEON when it is dispatched (41_voice_allocator R170). -/
def dispatchNoteOn (c : Config) (note vel : BitVec 7) (b : Block) : Block :=
  if vel = 0 then noteOffId c (midiId note) b else allocate c (.midi note vel) b

/-- NOTEOFF when it is dispatched (41_voice_allocator R178). -/
def dispatchNoteOff (c : Config) (note : BitVec 7) (b : Block) : Block := noteOffId c (midiId note) b

/-- NOTEON: the word waits in `EVQ` (30_encoding R104); `dispatchNoteOn` is what the poll runs. -/
def execNoteOn (ch : BitVec 4) (note vel : BitVec 7) (s : State) : Host.Outcome State Fault Refusal :=
  .next (s.enqueue (.noteOn ch note vel))

/-- NOTEOFF: the word waits in `EVQ` (30_encoding R104); `dispatchNoteOff` is what the poll runs. -/
def execNoteOff (ch : BitVec 4) (note vel : BitVec 7) (s : State) : Host.Outcome State Fault Refusal :=
  .next (s.enqueue (.noteOff ch note vel))

end Sys2Proof.Machine
end

