-- ==== Sys2Proof/Machine/Flags.lean ====
section
/-! DEFINITION. The one-bit state of the block: it has no condition codes (10_state R55), and its flags are the key
bits `A`, `B`, `C`, `Z`, `avail`, computed here, and `portaOn` (42_pitch_bend_portamento R203). -/

namespace Sys2Proof.Machine

/-- What a key scan can report (40_key_scanner R143, R144). -/
inductive Edge where
  | rising
  | falling
  deriving DecidableEq, Repr

/-- The latch equation (40_key_scanner R142). -/
def latch (z a b c : Bool) : Bool := (z && (a || b || c)) || (a && b && c)

/-- The history after one more sample (40_key_scanner R141). -/
def Key.shift (x : Key) (sample : Bool) : Key := { x with a := sample, b := x.a, c := x.b }

/-- The latched state after one more sample (40_key_scanner R142). -/
def Key.nextZ (x : Key) (sample : Bool) : Bool := latch x.z sample x.a x.b

/-- The edge a scan with this sample emits, if any (40_key_scanner R143, R144). -/
def Key.edge (x : Key) (sample : Bool) : Option Edge :=
  if x.nextZ sample && x.avail then some .rising
  else if !x.nextZ sample && !x.avail then some .falling
  else none

/-- Availability after the scan: cleared by a rising edge and set by a falling edge (40_key_scanner R143, R144). -/
def Key.nextAvail (x : Key) (sample : Bool) : Bool :=
  match x.edge sample with
  | some .rising => false
  | some .falling => true
  | none => x.avail

/-- A key's own registers after a scan (40_key_scanner R140). -/
def Key.scan (x : Key) (sample : Bool) : Key :=
  { x.shift sample with z := x.nextZ sample, avail := x.nextAvail sample }

end Sys2Proof.Machine
end

