-- ==== Sys2Proof/Machine/KeyScanner.lean ====
section
/-! DEFINITION. The key scanner (40_key_scanner). -/

namespace Sys2Proof.Machine

/-- What an edge of key `k` asks of the allocator (40_key_scanner R143, R144). -/
def keyEdge (c : Config) (k : Fin 13) (edge : Option Edge) (b : Block) : Block :=
  match edge with
  | some .rising => keyNoteOn c k b
  | some .falling => noteOffId c (keyId k) b
  | none => b

/-- `KEYSCAN(k)` with the sample on `KEY(k)` (40_key_scanner R140). -/
def keyScan (c : Config) (k : Fin 13) (sample : Bool) (b : Block) : Block :=
  keyEdge c k ((b.key k).edge sample) (b.setKey k ((b.key k).scan sample))

/-- The keys in scan order (40_key_scanner R145). -/
def allKeys : List (Fin 13) := [0, 1, 2, 3, 4, 5, 6, 7, 8, 9, 10, 11, 12]

/-- Step 4 of the control tick: every key once, in ascending order (46_scheduler R311, 40_key_scanner R145). -/
def scanKeys (c : Config) (p : Ports) (b : Block) : Block :=
  allKeys.foldl (fun b k => keyScan c k (p.keyAt k) b) b

end Sys2Proof.Machine
end

