-- ==== Sys2Proof/Machine/Lfo.lean ====
section
/-! DEFINITION. The LFO and the modulated filter cutoff (44_lfo_filter). -/

namespace Sys2Proof.Machine

/-- The signed LFO sample on the inverted unsigned range (44_lfo_filter R262). -/
def lfoUnsigned (raw : BitVec 8) : Nat := (127 - sext raw).toNat

/-- `lfoGain` (44_lfo_filter R260, R262). -/
def lfoGain (raw : BitVec 8) (depth : Nat) : Nat := shr (lfoUnsigned raw * depth) 8

/-- The modulated cutoff of a base cutoff (44_lfo_filter R262). -/
def modCutoff (base gain : Nat) : Nat := base - shr (base * gain) 8

/-- `LFO_CUTOFF_UPDATE`, step 2 of the control tick (44_lfo_filter R260, R261). -/
def lfoCutoffUpdate (c : Config) (b : Block) : Block :=
  let r := c.lfoStep b.lfoWave b.lfoPhase (lfoFreq c b.lfoSpeed)
  { b with lfoPhase := r.1, cutoff := modCutoff b.baseCutoff (lfoGain r.2 b.lfoDepth) }

/-- CC.MOD when it is dispatched (44_lfo_filter R266). -/
def dispatchCcMod (val : BitVec 7) (b : Block) : Block := { b with lfoDepth := 1 + zext val * 255 / 127 }

/-- CC.MOD: the word waits in `EVQ` (30_encoding R104); `dispatchCcMod` is what the poll runs. -/
def execCcMod (ch : BitVec 4) (val : BitVec 7) (s : State) : Host.Outcome State Fault Refusal :=
  .next (s.enqueue (.ccMod ch val))

end Sys2Proof.Machine
end

