-- ==== Sys2Proof/Machine/Renderer.lean ====
section
/-! DEFINITION. The audio renderer (45_audio_renderer). -/

namespace Sys2Proof.Machine

/-- A voice's gain (45_audio_renderer R292). -/
def voiceGain (volume : BitVec 7) (level : Nat) : Nat := shr (zext volume * level) 8

/-- The committed oscillator frequency of a voice. -/
def Shared.oscFreq (sh : Shared) : VoiceNo → Freq
  | .one => sh.oscFreq1
  | .two => sh.oscFreq2

/-- The committed envelope level of a voice. -/
def Shared.level (sh : Shared) : VoiceNo → Nat
  | .one => sh.level1
  | .two => sh.level2

/-- The oscillator's next phase and sample for a voice (45_audio_renderer R290, R291). -/
def oscOut (c : Config) (sh : Shared) (v : VoiceNo) (x : Voice) : Phase × BitVec 8 :=
  c.oscStep sh.waveSel x.oscPhase (sh.oscFreq v)

/-- The filter's next state and sample for a voice (45_audio_renderer R290, R291). -/
def lpfOut (c : Config) (sh : Shared) (v : VoiceNo) (x : Voice) : FilterState × BitVec (filtBits c) :=
  lpfStep c x.lpfState sh.cutoff c.resonance (oscOut c sh v x).2

/-- A voice after its oscillator and filter have advanced (45_audio_renderer R291). -/
def renderVoice (c : Config) (sh : Shared) (v : VoiceNo) (x : Voice) : Voice :=
  { x with oscPhase := (oscOut c sh v x).1, lpfState := (lpfOut c sh v x).1 }

/-- A voice's scaled, filtered sample (45_audio_renderer R292). -/
def voiceSample (c : Config) (sh : Shared) (v : VoiceNo) (x : Voice) : Int :=
  sext (lpfOut c sh v x).2 * voiceGain sh.volume (sh.level v)

/-- The mixed and shifted sample of an audio tick (45_audio_renderer R293). -/
def mixOut (c : Config) (b : Block) : Int :=
  asr (voiceSample c b.committed .one b.voice1 + voiceSample c b.committed .two b.voice2) c.outShift

/-- The block after an audio tick: the two phases and the two filter states (45_audio_renderer R290). -/
def renderBlock (c : Config) (b : Block) : Block :=
  { b with voice1 := renderVoice c b.committed .one b.voice1, voice2 := renderVoice c b.committed .two b.voice2 }

/-- The sample fits `OUT_BITS` signed bits (45_audio_renderer R290, R297). -/
def outFits (c : Config) (y : Int) : Bool :=
  decide (-(2 ^ (outBits c - 1)) ≤ y) && decide (y ≤ 2 ^ (outBits c - 1) - 1)

/-- CC.VOL when it is dispatched (45_audio_renderer R296). -/
def dispatchCcVol (val : BitVec 7) (b : Block) : Block := { b with volume := val }

/-- ATICK (45_audio_renderer R290): advance both voices and put the sample on `OUT`.
Where the sample does not fit `OUT_BITS`, R290 and R297 say that the model refuses the tick. -/
def execAtick (s : State) : Host.Outcome State Fault Refusal :=
  if outFits Config.block (mixOut Config.block s.blk) then
    .next { s with blk := renderBlock Config.block s.blk, samples := s.samples ++ [mixOut Config.block s.blk] }
  else .refused .outputOutOfRange

/-- CC.VOL: the word waits in `EVQ` (30_encoding R104); `dispatchCcVol` is what the poll runs. -/
def execCcVol (ch : BitVec 4) (val : BitVec 7) (s : State) : Host.Outcome State Fault Refusal :=
  .next (s.enqueue (.ccVol ch val))

end Sys2Proof.Machine
end

