-- ==== Sys2Proof/Machine/Scheduler.lean ====
section
/-! DEFINITION. The control scheduler: parameter poll, event dispatch and the control tick (46_scheduler), the
controllers with no effect, and RESET (70_reset_and_hazards). -/

namespace Sys2Proof.Machine

/-- `(i + 1) mod 8` (46_scheduler R313). -/
def nextIdx (i : Fin 8) : Fin 8 := ⟨(i.val + 1) % 8, Nat.mod_lt _ (by decide)⟩

/-- Write parameter `i` (46_scheduler R313). -/
def setParam (i : Fin 8) (p : Int) (b : Block) : Block :=
  match i.val with
  | 0 => { b with baseCutoff := p.toNat }
  | 1 => { b with waveSel := p.toNat }
  | 2 => { b with octave := p.toNat }
  | 3 => { b with attackMs := p.toNat }
  | 4 => { b with releaseMs := p.toNat }
  | 5 => { b with lfoWave := p.toNat }
  | 6 => { b with lfoSpeed := p }
  | _ => { b with lfoDepth := p.toNat }

/-- `PARAM_POLL`, step 1 of the control tick (46_scheduler R313). -/
def paramPoll (c : Config) (p : Ports) (b : Block) : Block :=
  { setParam b.idx (mapParam c b.idx (p.adcAt b.idx)) b with idx := nextIdx b.idx }

/-- CC.LEARN when it is dispatched (46_scheduler R332): no block state changes. -/
def dispatchCcLearn (_val : BitVec 7) (b : Block) : Block := b

/-- CC.OMNI when it is dispatched (46_scheduler R333): no block state changes. -/
def dispatchCcOmni (_val : BitVec 7) (b : Block) : Block := b

/-- CC.OTHER when it is dispatched (46_scheduler R334): no block state changes. -/
def dispatchCcOther (_ctl _val : BitVec 7) (b : Block) : Block := b

/-- `DISPATCH(w)` (46_scheduler R317). The channel is read by no rule (30_encoding R108). -/
def dispatch (c : Config) : Event → Block → Block
  | .noteOff _ note _ => dispatchNoteOff c note
  | .noteOn _ note vel => dispatchNoteOn c note vel
  | .ccMod _ val => dispatchCcMod val
  | .ccPorta _ val => dispatchCcPorta val
  | .ccVol _ val => dispatchCcVol val
  | .ccPbRange _ val => dispatchCcPbRange val
  | .ccLearn _ val => dispatchCcLearn val
  | .ccOmni _ val => dispatchCcOmni val
  | .ccOther _ ctl val => dispatchCcOther ctl val
  | .bend _ value => dispatchBend c value

/-- Dispatch up to `n` words from the head of `EVQ`: the queue that is left, and the block (46_scheduler R316). -/
def pollEvents (c : Config) : Nat → List Event → Block → List Event × Block
  | 0, q, b => (q, b)
  | _ + 1, [], b => ([], b)
  | n + 1, e :: q, b => pollEvents c n q (dispatch c e b)

/-- How many words `EVENT_POLL` may pop: all of them, or `MIDI_PER_TICK` (46_scheduler R316). -/
def pollBudget (m : PerTick) (q : List Event) : Nat :=
  match m with
  | .count n => n
  | .all => q.length

/-- The words a control tick pops, oldest first. -/
def polled (c : Config) (q : List Event) : List Event := q.take (pollBudget (midiPerTick c) q)

/-- Dispatch words one after another, each to completion before the next (46_scheduler R317). -/
def dispatchAll (c : Config) (q : List Event) (b : Block) : Block := q.foldl (fun b e => dispatch c e b) b

/-- `EVENT_POLL`, step 3 of the control tick (46_scheduler R316). -/
def eventPoll (c : Config) (q : List Event) (b : Block) : List Event × Block :=
  pollEvents c (pollBudget (midiPerTick c) q) q b

/-- Step 6 of the control tick: the glide tick, only while portamento is on (46_scheduler R311). -/
def glideStep (c : Config) (b : Block) : Block := if b.portaOn then glideTick c b else b

/-- Steps 1 and 2 of the control tick (46_scheduler R311). -/
def beforeEvents (c : Config) (p : Ports) (b : Block) : Block := lfoCutoffUpdate c (paramPoll c p b)

/-- Steps 4 to 7 of the control tick (46_scheduler R311). -/
def afterEvents (c : Config) (p : Ports) (b : Block) : Block :=
  (glideStep c (envTick c .two (envTick c .one (scanKeys c p b)))).commit

/-- The seven steps of the control tick: the queue that is left, and the block (46_scheduler R311). -/
def controlTick (c : Config) (p : Ports) (q : List Event) (b : Block) : List Event × Block :=
  let r := eventPoll c q (beforeEvents c p b)
  (r.1, afterEvents c p r.2)

/-- CTICK (46_scheduler R310). -/
def execCtick (s : State) : Host.Outcome State Fault Refusal :=
  let r := controlTick Config.block s.ports s.evq s.blk
  .next { s with blk := r.2, evq := r.1 }

/-- RESET (70_reset_and_hazards R380): every register and both copies of the shared ones; `EVQ` and the ports are
the environment's and stay. -/
def execReset (s : State) : Host.Outcome State Fault Refusal := .next { s with blk := Block.reset Config.block }

/-- CC.LEARN: the word waits in `EVQ` (30_encoding R104); `dispatchCcLearn` is what the poll runs. -/
def execCcLearn (ch : BitVec 4) (val : BitVec 7) (s : State) : Host.Outcome State Fault Refusal :=
  .next (s.enqueue (.ccLearn ch val))

/-- CC.OMNI: the word waits in `EVQ` (30_encoding R104); `dispatchCcOmni` is what the poll runs. -/
def execCcOmni (ch : BitVec 4) (val : BitVec 7) (s : State) : Host.Outcome State Fault Refusal :=
  .next (s.enqueue (.ccOmni ch val))

/-- CC.OTHER: the word waits in `EVQ` (30_encoding R104); `dispatchCcOther` is what the poll runs. -/
def execCcOther (ch : BitVec 4) (ctl val : BitVec 7) (s : State) : Host.Outcome State Fault Refusal :=
  .next (s.enqueue (.ccOther ch ctl val))

end Sys2Proof.Machine
end

