-- ==== Sys2Proof/Machine/Dispatch.lean ====
section
/-! DEFINITION. One arm per command: the call of its meaning. -/

namespace Sys2Proof.Machine

def exec (i : Instr) (s : State) : Host.Outcome State Fault Refusal :=
  match i with
  | .ctick => Sys2Proof.Machine.execCtick s
  | .atick => Sys2Proof.Machine.execAtick s
  | .reset => Sys2Proof.Machine.execReset s
  | .noteOff ch note vel => Sys2Proof.Machine.execNoteOff ch note vel s
  | .noteOn ch note vel => Sys2Proof.Machine.execNoteOn ch note vel s
  | .ccMod ch val => Sys2Proof.Machine.execCcMod ch val s
  | .ccPorta ch val => Sys2Proof.Machine.execCcPorta ch val s
  | .ccVol ch val => Sys2Proof.Machine.execCcVol ch val s
  | .ccPbRange ch val => Sys2Proof.Machine.execCcPbRange ch val s
  | .ccLearn ch val => Sys2Proof.Machine.execCcLearn ch val s
  | .ccOmni ch val => Sys2Proof.Machine.execCcOmni ch val s
  | .ccOther ch ctl val => Sys2Proof.Machine.execCcOther ch ctl val s
  | .bend ch value => Sys2Proof.Machine.execBend ch value s

end Sys2Proof.Machine
end

