-- ==== Sys2Proof/Machine/Step.lean ====
section
/-! DEFINITION. One step: one command word (00_scope R11). -/

namespace Sys2Proof.Machine

/-- One step of the model (00_scope R11, 20_memory R90).
With no command presented the block is idle with its state held (60_exceptions R370, 70_reset_and_hazards R381).
A reserved word is refused (30_encoding R112). -/
def step (s : State) : Host.Outcome State Fault Refusal :=
  match s.cmd with
  | [] => .next s
  | p :: rest =>
    match decode p.word with
    | .ok i => exec i (s.present p rest)
    | .error why => .refused (.reservedEncoding why)

/-- `s` with the word `w` presented as its next command (log 1); the bits above `nbits` are 0. -/
def State.withFetchWord (s : State) (nbits w : Nat) : State := s.offer (BitVec.ofNat 32 (w % 2 ^ nbits))

end Sys2Proof.Machine
end

