-- ==== Sys2Proof/Safety.lean ====
section
/-! DEFINITION. The terms claims use: the register domains of the rules as an invariant, runs and their
observation, the launch premise and the rate pattern. -/

namespace Sys2Proof.Machine

/-! ## The register domains (10_state) -/

/-- A legal identity: 0..127, or the sentinel 129 (10_state R33). -/
def legalNote (n : BitVec 8) : Prop := n.toNat ≤ 127 ∨ n = noNote

/-- An envelope in its domain (10_state R38): levels 0..255 and counters that `CNT_BITS` bits hold.
An Idle envelope is at level 0 (43_envelope R237), and Release and Idle end at 0 (R230). -/
structure Env.Ok (c : Config) (e : Env) : Prop where
  level : e.level ≤ 255
  attackLevel : e.attackLevel ≤ 255
  decayLevel : e.decayLevel ≤ 255
  start : e.start ≤ 255
  target : e.target ≤ 255
  elapsed : e.k = 0 ∨ e.k < e.len
  length : e.len < 2 ^ cntBits c
  idleSilent : e.stage = .idle → e.level = 0
  releaseEnds : e.stage = .release → e.target = 0

/-- A voice in its domain (10_state R33 to R38). -/
structure Voice.Ok (c : Config) (x : Voice) : Prop where
  noteId : legalNote x.noteId
  baseFreq : 0 ≤ x.baseFreq
  oscFreq : 0 ≤ x.oscFreq
  env : x.env.Ok c

/-- A key between scans: it is available exactly when it is not latched (10_state R56). -/
def Key.Ok (x : Key) : Prop := x.avail = !x.z

/-- The control parameters in their declared ranges (10_state R44) and the cutoff within `CUTOFF_MAX` (R47). -/
structure Block.ParamsOk (c : Config) (b : Block) : Prop where
  baseCutoff : outLo c 0 ≤ b.baseCutoff ∧ (b.baseCutoff : Int) ≤ outHi c 0
  waveSel : 1 ≤ b.waveSel ∧ b.waveSel ≤ 4
  octave : b.octave ≤ 3
  attackMs : outLo c 3 ≤ b.attackMs ∧ (b.attackMs : Int) ≤ outHi c 3
  releaseMs : outLo c 4 ≤ b.releaseMs ∧ (b.releaseMs : Int) ≤ outHi c 4
  lfoWave : 1 ≤ b.lfoWave ∧ b.lfoWave ≤ 4
  lfoSpeed : outLo c 6 ≤ b.lfoSpeed ∧ b.lfoSpeed ≤ outHi c 6
  lfoDepth : 1 ≤ b.lfoDepth ∧ b.lfoDepth ≤ 256
  cutoff : b.cutoff ≤ cutoffMax c

/-- The pitch-bend and portamento registers in their domains (10_state R51, R53, R54). -/
structure Block.PitchOk (c : Config) (b : Block) : Prop where
  ratio : 0 ≤ b.ratio
  portaMs : b.portaMs ≤ 1000
  glideFrom : 0 ≤ b.glideFrom
  glideTo : 0 ≤ b.glideTo
  glideOut : 0 ≤ b.glideOut
  glideK : b.glideK ≤ b.glideLen
  glideLen : b.glideLen < 2 ^ cntBits c

/-- Every working register of the block in its domain (10_state section 12). -/
structure Block.Ok (c : Config) (b : Block) : Prop where
  voices : ∀ v, (b.voice v).Ok c
  keys : ∀ k, (b.key k).Ok
  params : b.ParamsOk c
  pitch : b.PitchOk c

/-- The invariant of the machine: every register in its domain, the two copies of the shared registers equal
between commands (20_memory R83), `EVQ` holding event words only (46_scheduler R317), and every sample within
`OUT_BITS` (45_audio_renderer R290). -/
structure State.Ok (s : State) : Prop where
  blk : s.blk.Ok Config.block
  agree : s.blk.committed = s.blk.shared
  evq : ∀ e ∈ s.evq, e.toInstr.wf = true
  samples : ∀ y ∈ s.samples, outFits Config.block y = true

/-! ## The control parameters by index (10_state R44) -/

/-- The register of parameter `i`. -/
def Block.param (b : Block) (i : Fin 8) : Int :=
  match i.val with
  | 0 => b.baseCutoff
  | 1 => b.waveSel
  | 2 => b.octave
  | 3 => b.attackMs
  | 4 => b.releaseMs
  | 5 => b.lfoWave
  | 6 => b.lfoSpeed
  | _ => b.lfoDepth

/-- How many words `n` control ticks may pop from a queue that nothing is appended to (46_scheduler R316). -/
def poppedBy (m : PerTick) (n : Nat) (q : List Event) : Nat :=
  match m with
  | .count k => n * k
  | .all => if n = 0 then 0 else q.length

/-! ## Runs (70_reset_and_hazards R385, R386; 60_exceptions R356) -/

/-- The launch premise `CleanLaunch` (70_reset_and_hazards R386). -/
def CleanLaunch (s : State) : Prop := s.blk = Block.reset Config.block ∧ s.evq = []

/-- `n` commands of the run from `s` are carried out with no refusal (70_reset_and_hazards R385). -/
def Unrefused (n : Nat) (s : State) : Prop := ∃ t : State, Sys2Proof.core.run n s = .next t

/-- The observation of a run beside its final state: the samples its audio ticks produced (R385). -/
def observation (s : State) : List Int := s.samples

/-- `ratePatternFrom n seen ws`: with `seen` audio ticks since the last control tick of what came before, if there
was one, every two consecutive control ticks have exactly `n` audio ticks between them. -/
def ratePatternFrom (n : Nat) : Option Nat → List Word → Bool
  | _, [] => true
  | seen, w :: ws =>
    if w = encode .ctick then
      (match seen with
        | none => true
        | some k => k == n) && ratePatternFrom n (some 0) ws
    else if w = encode .atick then ratePatternFrom n (seen.map (· + 1)) ws
    else ratePatternFrom n seen ws

/-- The premise `RATE_PATTERN(n)` on a command sequence (60_exceptions R356). -/
def ratePattern (n : Nat) (ws : List Word) : Bool := ratePatternFrom n none ws

/-! ## What two runs may differ in -/

/-- `b` with other audio-side registers: a phase and a filter state for each voice (20_memory R85). -/
def Block.withAudio (b : Block) (one two : Phase × FilterState) : Block :=
  { b with
    voice1 := { b.voice1 with oscPhase := one.1, lpfState := one.2 }
    voice2 := { b.voice2 with oscPhase := two.1, lpfState := two.2 } }

/-- `b` with another envelope in voice `v`, and every other register as it is. -/
def Block.withEnv (b : Block) (v : VoiceNo) (e : Env) : Block :=
  match v with
  | .one => { b with voice1 := { b.voice1 with env := e } }
  | .two => { b with voice2 := { b.voice2 with env := e } }

/-- The same event from another channel (30_encoding R108). -/
def Event.withChannel (ch : BitVec 4) : Event → Event
  | .noteOff _ note vel => .noteOff ch note vel
  | .noteOn _ note vel => .noteOn ch note vel
  | .ccMod _ val => .ccMod ch val
  | .ccPorta _ val => .ccPorta ch val
  | .ccVol _ val => .ccVol ch val
  | .ccPbRange _ val => .ccPbRange ch val
  | .ccLearn _ val => .ccLearn ch val
  | .ccOmni _ val => .ccOmni ch val
  | .ccOther _ ctl val => .ccOther ch ctl val
  | .bend _ value => .bend ch value

/-! ## Sample sequences of one key (40_key_scanner R146) -/

/-- Three consecutive samples of the list equal `v`. -/
def threeInRow (v : Bool) : List Bool → Bool
  | x :: y :: z :: l => (x == v && y == v && z == v) || threeInRow v (y :: z :: l)
  | _ => false

/-- A key's own registers after a sequence of scans. -/
def Key.scans (x : Key) (samples : List Bool) : Key := samples.foldl Key.scan x

end Sys2Proof.Machine
end

