-- ==== Sys2Proof/Certificates/Slice0/Obligations.lean ====
section
/-! DEFINITION. The statements for the provers. Each docstring names the rules of spec/ it formalises. -/

open Sys2Proof Sys2Proof.Machine

/-! ## Encoding (30_encoding) -/

/-- Decoding the word of any well-formed command gives the command, with every operand at every value
(R102, R105 to R109). -/
def Obligations.DecodeOfEncode : Prop :=
  ∀ i : Instr, i.wf = true → decode (encode i) = .ok i

/-- Each word has one meaning: a word that decodes is the word of the command it decodes to, and that command is
well formed (R108, R109, R111). -/
def Obligations.EncodeOfDecode : Prop :=
  ∀ (w : Word) (i : Instr), decode w = .ok i → encode i = w ∧ i.wf = true

/-- A word is reserved when it selects no row of the opcode map; the reserved words are exactly the four sorts R112
lists; and the step refuses each of them. -/
def Obligations.ReservedWordsRefused : Prop :=
  (∀ w : Word, (∃ why, decode w = .error why) ↔ ∀ r ∈ rowCcOther :: exactRows, r.selects w = false) ∧
  (∀ w : Word, (∃ why, decode w = .error why) ↔
    (¬ (opField w = 0x0 ∨ opField w = 0x8 ∨ opField w = 0x9 ∨ opField w = 0xB ∨ opField w = 0xE)) ∨
    (opField w = 0x0 ∧
      (¬ (subField w = 0x01 ∨ subField w = 0x02 ∨ subField w = 0x03) ∨ w.extractLsb' 8 20 ≠ 0)) ∨
    ((opField w = 0x8 ∨ opField w = 0x9 ∨ opField w = 0xB) ∧
      (w.getLsbD 23 = true ∨ w.getLsbD 15 = true ∨ w.extractLsb' 0 8 ≠ 0)) ∨
    (opField w = 0xE ∧ w.extractLsb' 14 10 ≠ 0)) ∧
  (∀ (s : State) (p : Presented) (rest : List Presented) (why : Reserved),
    s.cmd = p :: rest → decode p.word = .error why → step s = .refused (.reservedEncoding why))

/-- Decoding is unambiguous with one priority (R111): two rows other than CC.OTHER never select the same word;
CC.OTHER shares words with format C rows only; a format C word selects its controller's own row, or CC.OTHER
where there is none; a NOTEON word of velocity 0 is still NOTEON. -/
def Obligations.OpcodeMapUnambiguous : Prop :=
  (∀ r₁ ∈ exactRows, ∀ r₂ ∈ exactRows, ∀ w : Word, r₁.selects w = true → r₂.selects w = true → r₁ = r₂) ∧
  (∀ r ∈ exactRows, ∀ w : Word, r.selects w = true → rowCcOther.selects w = true → opField r.pattern = 0xB) ∧
  (∀ (ch : BitVec 4) (ctl val : BitVec 7),
    rowCcOther.selects (formatNC 0xB ch ctl val) = true ∧
    decode (formatNC 0xB ch ctl val) = .ok
      (if ctl = 1 then .ccMod ch val else if ctl = 5 then .ccPorta ch val else if ctl = 7 then .ccVol ch val
       else if ctl = 20 then .ccPbRange ch val else if ctl = 124 then .ccLearn ch val
       else if ctl = 125 then .ccOmni ch val else .ccOther ch ctl val)) ∧
  (∀ (ch : BitVec 4) (note : BitVec 7), decode (formatNC 0x9 ch note 0) = .ok (.noteOn ch note 0))

/-- The encoding examples of R117, the reserved ones among them. -/
def Obligations.EncodingExamples : Prop :=
  decode 0x00000001 = .ok .ctick ∧ decode 0x00000002 = .ok .atick ∧ decode 0x00000003 = .ok .reset ∧
  decode 0x903C6400 = .ok (.noteOn 0 60 100) ∧ decode 0x803C0000 = .ok (.noteOff 0 60 0) ∧
  decode 0x92027F00 = .ok (.noteOn 2 2 127) ∧ decode 0xB0054000 = .ok (.ccPorta 0 64) ∧
  decode 0xB0077F00 = .ok (.ccVol 0 127) ∧ decode 0xB0140C00 = .ok (.ccPbRange 0 12) ∧
  decode 0xB0017F00 = .ok (.ccMod 0 127) ∧ decode 0xB0400000 = .ok (.ccOther 0 64 0) ∧
  decode 0xE0001FFF = .ok (.bend 0 8191) ∧ decode 0xE0002000 = .ok (.bend 0 (-8192)) ∧
  decode 0xE0003FFF = .ok (.bend 0 (-1)) ∧ decode 0xE0000000 = .ok (.bend 0 0) ∧
  decode 0x00000000 = .error .strobe ∧ decode 0x00000004 = .error .strobe ∧
  decode 0x903C6401 = .error .message ∧ decode 0x90BC6400 = .error .message ∧
  decode 0xE0004000 = .error .bend ∧ decode 0xA0000000 = .error .op

/-! ## The step (00_scope, 20_memory, 60_exceptions) -/

/-- A step runs the decoded command: the presented word's port values stand on the ports, the word is consumed,
and the rest of the state is what `exec` is given (R11, R90). The list `cmd` is the model's (log 1). -/
def Obligations.StepRunsDecodedCommand : Prop :=
  ∀ (s : State) (p : Presented) (rest : List Presented) (i : Instr), s.cmd = p :: rest → decode p.word = .ok i →
    step s = exec i { s with ports := p.ports, cmd := rest }

/-- With no command presented the block is idle with its state held (R370, R381; the empty list is the model's
idle state, log 1). -/
def Obligations.IdleBlockHoldsItsState : Prop :=
  ∀ s : State, s.cmd = [] → step s = .next s

/-- Every command is carried out in every state, but for ATICK, which is carried out or refused for its sample
(R350, R360, R364). -/
def Obligations.EveryCommandIsAccepted : Prop :=
  ∀ (i : Instr) (s : State),
    (i ≠ .atick → ∃ t, exec i s = .next t) ∧
    ((∃ t, exec .atick s = .next t) ∨ exec .atick s = .refused .outputOutOfRange)

/-! ## Event words (30_encoding R104, 46_scheduler R316) -/

/-- An event word is appended to the tail of `EVQ` and changes nothing else; the head of `EVQ` is what the next
control tick dispatches first, between its second and fourth step, whatever `MIDI_PER_TICK` is, with as many of the
words after it as that allows; a reserved word is never appended (R104). -/
def Obligations.EventWordsWaitInEvq : Prop :=
  (∀ (s : State) (ch : BitVec 4) (x y : BitVec 7) (z : BitVec 14),
    exec (.noteOff ch x y) s = .next { s with evq := s.evq ++ [.noteOff ch x y] } ∧
    exec (.noteOn ch x y) s = .next { s with evq := s.evq ++ [.noteOn ch x y] } ∧
    exec (.ccMod ch x) s = .next { s with evq := s.evq ++ [.ccMod ch x] } ∧
    exec (.ccPorta ch x) s = .next { s with evq := s.evq ++ [.ccPorta ch x] } ∧
    exec (.ccVol ch x) s = .next { s with evq := s.evq ++ [.ccVol ch x] } ∧
    exec (.ccPbRange ch x) s = .next { s with evq := s.evq ++ [.ccPbRange ch x] } ∧
    exec (.ccLearn ch x) s = .next { s with evq := s.evq ++ [.ccLearn ch x] } ∧
    exec (.ccOmni ch x) s = .next { s with evq := s.evq ++ [.ccOmni ch x] } ∧
    exec (.ccOther ch x y) s = .next { s with evq := s.evq ++ [.ccOther ch x y] } ∧
    exec (.bend ch z) s = .next { s with evq := s.evq ++ [.bend ch z] }) ∧
  (∀ (s : State) (e : Event) (q : List Event), s.evq = e :: q →
    let c := Config.block
    let more := match midiPerTick c with
      | .count m => m - 1
      | .all => q.length
    exec .ctick s = .next { s with
      evq := q.drop more
      blk := afterEvents c s.ports
        ((q.take more).foldl (fun b e => dispatch c e b) (dispatch c e (beforeEvents c s.ports s.blk))) }) ∧
  (∀ (s t : State) (p : Presented) (rest : List Presented) (why : Reserved),
    s.cmd = p :: rest → decode p.word = .error why → step s ≠ .next t)

/-- `EVENT_POLL` (R316): with `MIDI_PER_TICK` a number, which is positive, it dispatches up to that many words from the
head of `EVQ` in their order, each to completion before the next (R317); with `ALL` it dispatches every one. -/
def Obligations.EventPollFollowsMidiPerTick : Prop :=
  ∀ (c : Config) (q : List Event) (b : Block),
    (∀ m, midiPerTick c = .count m →
      0 < m ∧ eventPoll c q b = (q.drop m, (q.take m).foldl (fun b e => dispatch c e b) b)) ∧
    (midiPerTick c = .all → eventPoll c q b = ([], q.foldl (fun b e => dispatch c e b) b))

/-- With `MIDI_PER_TICK = 1`, the spec's default, the n-th pending word is dispatched by the n-th following control
tick, on whatever inputs (R316, R389): so many control ticks leave the rest of `EVQ`, and the block that the words,
one per tick and in their order, give. -/
def Obligations.NthWordDispatchedByNthTick : Prop :=
  ∀ (c : Config), midiPerTick c = .count 1 → ∀ (l : List (Ports × Event)) (rest : List Event) (b : Block),
    l.foldl (fun r x => controlTick c x.1 r.1 r.2) (l.map Prod.snd ++ rest, b) =
      (rest, l.foldl (fun b x => afterEvents c x.1 (dispatch c x.2 (beforeEvents c x.1 b))) b)

/-! ## The control tick (46_scheduler) -/

/-- The control tick is carried out in every state and is the seven steps of R311 in order: the poll, the LFO and
cutoff, the events the poll may take (R316), the 13 keys in ascending order (R145), the two envelopes, the glide
while portamento is on, the commit. `EVQ` loses the words dispatched, and nothing else of the state changes. -/
def Obligations.ControlTickRunsSevenSteps : Prop :=
  ∀ s : State,
    let c := Config.block
    let b₁ := paramPoll c s.ports s.blk
    let b₂ := lfoCutoffUpdate c b₁
    let n := match midiPerTick c with
      | .count m => m
      | .all => s.evq.length
    let b₃ := (s.evq.take n).foldl (fun b e => dispatch c e b) b₂
    let b₄ := ([0, 1, 2, 3, 4, 5, 6, 7, 8, 9, 10, 11, 12] : List (Fin 13)).foldl
      (fun b k => keyScan c k (s.ports.keys.getLsbD k.val) b) b₃
    let b₅ := envTick c .two (envTick c .one b₄)
    let b₆ := if b₅.portaOn = true then glideTick c b₅ else b₅
    exec .ctick s = .next { s with blk := b₆.commit, evq := s.evq.drop n }

/-- `PARAM_POLL` (R313): the register of index `idx` gets the mapped value of its channel, `idx` moves on by one
modulo 8, and nothing else changes. -/
def Obligations.PollWritesSelectedParameter : Prop :=
  ∀ (c : Config) (p : Ports) (b : Block),
    let m := mapParam c b.idx p.adc[b.idx]
    (b.idx = 0 → paramPoll c p b = { b with baseCutoff := m.toNat, idx := 1 }) ∧
    (b.idx = 1 → paramPoll c p b = { b with waveSel := m.toNat, idx := 2 }) ∧
    (b.idx = 2 → paramPoll c p b = { b with octave := m.toNat, idx := 3 }) ∧
    (b.idx = 3 → paramPoll c p b = { b with attackMs := m.toNat, idx := 4 }) ∧
    (b.idx = 4 → paramPoll c p b = { b with releaseMs := m.toNat, idx := 5 }) ∧
    (b.idx = 5 → paramPoll c p b = { b with lfoWave := m.toNat, idx := 6 }) ∧
    (b.idx = 6 → paramPoll c p b = { b with lfoSpeed := m, idx := 7 }) ∧
    (b.idx = 7 → paramPoll c p b = { b with lfoDepth := m.toNat, idx := 0 })

/-- A run of control ticks, whatever the inputs: `idx` moves on by their number modulo 8 (R313), and as many words as
`MIDI_PER_TICK` allows them have left the head of `EVQ` (R316). -/
def Obligations.RoundRobinOverControlTicks : Prop :=
  ∀ (s : State) (ps : List Ports), s.cmd = ps.map (fun p => ⟨0x00000001, p⟩) →
    ∃ t : State, Sys2Proof.core.run ps.length s = .next t ∧ t.cmd = [] ∧
      t.blk.idx.val = (s.blk.idx.val + ps.length) % 8 ∧
      t.evq = s.evq.drop (poppedBy (midiPerTick Config.block) ps.length s.evq)

/-- The round robin (R315, R387): over any eight consecutive control ticks each parameter is loaded once, from its own
channel as it stands at its own tick, in index order from the index the run starts at. The LFO depth is so loaded
where none of the words the eight ticks may dispatch is CC.MOD, its other writer. -/
def Obligations.RoundRobinLoadsEveryParameter : Prop :=
  ∀ (s : State) (ps : List Ports), ps.length = 8 → s.cmd = ps.map (fun p => ⟨0x00000001, p⟩) →
    ∃ t : State, Sys2Proof.core.run 8 s = .next t ∧
      ∀ (j i : Fin 8) (p : Ports), ps[j.val]? = some p → i.val = (s.blk.idx.val + j.val) % 8 →
        (i = 7 → ∀ ch val,
          Event.ccMod ch val ∉ s.evq.take (poppedBy (midiPerTick Config.block) 8 s.evq)) →
        t.blk.param i = mapParam Config.block i p.adc[i]

/-- The mapper (R320). The default map: clamp, then the linear map with floor rounding; the result lies in the declared
range, and reaches its top only at the top input where the range is not degenerate. The default map is used unless
the model supplies its own map into the declared range, which is then used as it is; the result lies in that range
either way. -/
def Obligations.MapperIsLinearInRange : Prop :=
  ∀ (c : Config) (i : Fin 8) (x : BitVec 10),
    let x' : Int := min (max (x.toNat : Int) (inLo i)) (inHi i)
    defaultMap c i x = outLo c i + Int.fdiv ((x' - inLo i) * (outHi c i - outLo c i)) (inHi i - inLo i) ∧
    outLo c i ≤ defaultMap c i x ∧ defaultMap c i x ≤ outHi c i ∧
    (outLo c i < outHi c i → (defaultMap c i x = outHi c i ↔ x' = inHi i)) ∧
    (c.mapOwn i = none → mapParam c i x = defaultMap c i x) ∧
    (∀ f, c.mapOwn i = some f → (∀ y, outLo c i ≤ f y ∧ f y ≤ outHi c i) → mapParam c i x = f x) ∧
    outLo c i ≤ mapParam c i x ∧ mapParam c i x ≤ outHi c i

/-- The default map's bands (R322): waveform and LFO waveform, octave, LFO depth. -/
def Obligations.DefaultMapBands : Prop :=
  ∀ (c : Config) (x : BitVec 10),
    (defaultMap c 1 x = if x.toNat ≤ 340 then 1 else if x.toNat ≤ 681 then 2 else if x.toNat ≤ 1022 then 3 else 4) ∧
    (defaultMap c 5 x = if x.toNat ≤ 340 then 1 else if x.toNat ≤ 681 then 2 else if x.toNat ≤ 1022 then 3 else 4) ∧
    (defaultMap c 2 x = if x.toNat ≤ 340 then 0 else if x.toNat ≤ 681 then 1 else if x.toNat ≤ 1022 then 2 else 3) ∧
    defaultMap c 7 x = 1 + (255 * x.toNat / 1023 : Nat)

/-- Each control register has its writers and no others, over a whole control tick: only the poll of its index
writes a parameter, only its controller writes a controller's register (and `lfoDepth` also), only BEND writes
`bend` and `ratio` (R42, R44, R49 to R53). -/
def Obligations.ControlRegistersHaveTheirWriters : Prop :=
  ∀ s t : State, exec .ctick s = .next t →
    t.blk.idx = (paramPoll Config.block s.ports s.blk).idx ∧
    (s.blk.idx ≠ 0 → t.blk.baseCutoff = s.blk.baseCutoff) ∧
    (s.blk.idx ≠ 1 → t.blk.waveSel = s.blk.waveSel) ∧
    (s.blk.idx ≠ 2 → t.blk.octave = s.blk.octave) ∧
    (s.blk.idx ≠ 3 → t.blk.attackMs = s.blk.attackMs) ∧
    (s.blk.idx ≠ 4 → t.blk.releaseMs = s.blk.releaseMs) ∧
    (s.blk.idx ≠ 5 → t.blk.lfoWave = s.blk.lfoWave) ∧
    (s.blk.idx ≠ 6 → t.blk.lfoSpeed = s.blk.lfoSpeed) ∧
    (s.blk.idx ≠ 7 → (∀ ch val, Event.ccMod ch val ∉ polled Config.block s.evq) → t.blk.lfoDepth = s.blk.lfoDepth) ∧
    ((∀ ch val, Event.ccVol ch val ∉ polled Config.block s.evq) → t.blk.volume = s.blk.volume) ∧
    ((∀ ch val, Event.ccPbRange ch val ∉ polled Config.block s.evq) → t.blk.pbRange = s.blk.pbRange) ∧
    ((∀ ch val, Event.ccPorta ch val ∉ polled Config.block s.evq) →
      t.blk.portaOn = s.blk.portaOn ∧ t.blk.portaMs = s.blk.portaMs) ∧
    ((∀ ch value, Event.bend ch value ∉ polled Config.block s.evq) →
      t.blk.bend = s.blk.bend ∧ t.blk.ratio = s.blk.ratio)

/-- Both copies of the shared registers agree after a control tick, and a control tick leaves the audio side as it
was and does not depend on it: run from a block with any other phases and filter states, it gives the same
result with those (R83, R85). -/
def Obligations.ControlTickIgnoresAudioSide : Prop :=
  ∀ s t : State, exec .ctick s = .next t →
    t.blk.committed = t.blk.shared ∧
    (∀ v, (t.blk.voice v).oscPhase = (s.blk.voice v).oscPhase ∧ (t.blk.voice v).lpfState = (s.blk.voice v).lpfState) ∧
    (∀ one two : Phase × FilterState,
      exec .ctick { s with blk := s.blk.withAudio one two } = .next { t with blk := t.blk.withAudio one two })

/-- The channel of an event is read by no rule (R108): with every queued event on another channel, the control tick
gives the same block. -/
def Obligations.ChannelIsIgnored : Prop :=
  ∀ (s t : State) (ch : BitVec 4), exec .ctick s = .next t →
    exec .ctick { s with evq := s.evq.map (Event.withChannel ch) } =
      .next { t with evq := t.evq.map (Event.withChannel ch) }

/-! ## The controllers -/

/-- CC.MOD (R266), CC.PORTA (R203), CC.PBRANGE (R204) and CC.VOL (R296) write their registers and nothing else. -/
def Obligations.ControllersWriteTheirRegisters : Prop :=
  ∀ (c : Config) (b : Block) (ch : BitVec 4) (val : BitVec 7),
    dispatch c (.ccMod ch val) b = { b with lfoDepth := 1 + val.toNat * 255 / 127 } ∧
    dispatch c (.ccPorta ch val) b =
      { b with portaOn := decide (val ≠ 0), portaMs := val.toNat * 1000 / 127 } ∧
    (dispatch c (.ccPbRange ch val) b).pbRange.val = min val.toNat 12 ∧
    dispatch c (.ccPbRange ch val) b = { b with pbRange := (dispatch c (.ccPbRange ch val) b).pbRange } ∧
    dispatch c (.ccVol ch val) b = { b with volume := val }

/-- CC.LEARN, CC.OMNI and CC.OTHER change no block state (R332 to R334): dispatching one leaves the block as it is, and
a control tick that dispatches only such words leaves the block as one with an empty queue does, and consumes
them. -/
def Obligations.NoEffectControllers : Prop :=
  (∀ (c : Config) (b : Block) (ch : BitVec 4) (ctl val : BitVec 7),
    dispatch c (.ccLearn ch val) b = b ∧ dispatch c (.ccOmni ch val) b = b ∧ dispatch c (.ccOther ch ctl val) b = b) ∧
  (∀ s : State,
    (∀ e ∈ polled Config.block s.evq, ∃ (ch : BitVec 4) (ctl val : BitVec 7),
      e = .ccLearn ch val ∨ e = .ccOmni ch val ∨ e = .ccOther ch ctl val) →
    ∃ t u : State, exec .ctick s = .next t ∧ exec .ctick { s with evq := [] } = .next u ∧ t.blk = u.blk ∧
      s.evq = polled Config.block s.evq ++ t.evq)

/-! ## The LFO and the cutoff (44_lfo_filter) -/

/-- `LFO_CUTOFF_UPDATE` in integers (R260): the phase advances, the cutoff is recomputed, nothing else changes. The
depth is within its register's range. -/
def Obligations.LfoUpdateRecomputesCutoff : Prop :=
  ∀ (c : Config) (b : Block), b.lfoDepth ≤ 256 →
    let r := c.lfoStep b.lfoWave b.lfoPhase (lfoFreq c b.lfoSpeed)
    let u : Int := 127 - r.2.toInt
    let gain : Int := Int.fdiv (u * b.lfoDepth) (2 ^ 8)
    let b' := lfoCutoffUpdate c b
    b' = { b with lfoPhase := r.1, cutoff := b'.cutoff } ∧
    (b'.cutoff : Int) = b.baseCutoff - Int.fdiv (b.baseCutoff * gain) (2 ^ 8)

/-- The LFO only lowers the cutoff, and by how much (R262, R263): `lfoGain` is at most 255, the cutoff lies between
`ceil(base / 256)` and the base, equals the base at depth 1 and at the positive extreme, and equals
`ceil(base / 256)` at depth 256 and the negative extreme. -/
def Obligations.ModulatedCutoffRange : Prop :=
  ∀ (base depth : Nat) (raw : BitVec 8), 1 ≤ depth → depth ≤ 256 →
    (lfoGain raw depth : Int) = Int.fdiv ((127 - raw.toInt) * depth) (2 ^ 8) ∧ lfoGain raw depth ≤ 255 ∧
    (base + 255) / 256 ≤ modCutoff base (lfoGain raw depth) ∧ modCutoff base (lfoGain raw depth) ≤ base ∧
    (depth = 1 → lfoGain raw depth = 0 ∧ modCutoff base (lfoGain raw depth) = base) ∧
    (raw.toInt = 127 → lfoGain raw depth = 0 ∧ modCutoff base (lfoGain raw depth) = base) ∧
    (depth = 256 → raw.toInt = -128 →
      lfoGain raw depth = 255 ∧ modCutoff base (lfoGain raw depth) = (base + 255) / 256)

/-! ## Pitch bend and portamento (42_pitch_bend_portamento) -/

/-- BEND (R200, R201): the value and the ratio are stored and both oscillators are written, occupied or not. -/
def Obligations.BendRetunesBothVoices : Prop :=
  ∀ (c : Config) (b : Block) (ch : BitVec 4) (value : BitVec 14),
    let x : Rat := (value.toInt : Rat) / 8192
    let r : Rat := if value.toInt = 0 then 1
      else if 0 < value.toInt then 1 + x * pbMax c b.pbRange else 1 + x * pbMin c b.pbRange
    dispatch c (.bend ch value) b = { b with
      bend := value
      ratio := r
      voice1 := { b.voice1 with oscFreq := freqRound c (b.voice1.baseFreq * r) }
      voice2 := { b.voice2 with oscFreq := freqRound c (b.voice2.baseFreq * r) } }

/-- The ratio's range (R202): never negative, monotone in the bend, exactly 1 at bend 0, with its largest value at
8191, which is below `1 + PBMAX[k]`, and its smallest at -8192, which is `1 - PBMIN[k]`. -/
def Obligations.BendRatioRange : Prop :=
  ∀ (c : Config) (k : Fin 13) (x y : BitVec 14),
    0 ≤ bendRatio c x.toInt k ∧ bendRatio c 0 k = 1 ∧
    (0 < pbMax c k → bendRatio c x.toInt k < 1 + pbMax c k) ∧
    (x.toInt ≤ y.toInt → bendRatio c x.toInt k ≤ bendRatio c y.toInt k) ∧
    bendRatio c 8191 k = 1 + (8191 / 8192 : Rat) * pbMax c k ∧ bendRatio c x.toInt k ≤ bendRatio c 8191 k ∧
    bendRatio c (-8192) k = 1 - pbMin c k ∧ bendRatio c (-8192) k ≤ bendRatio c x.toInt k

/-- A glide (R205, R206): `n` glide ticks after `GLIDE_START(f)` the counter is at `min n len`, the output is `f`
from tick `len` on and the linear ramp from the old output before it, voice 2's oscillator has the output, and
nothing else has changed. -/
def Obligations.GlideReachesItsTarget : Prop :=
  ∀ (c : Config) (b : Block) (f : Freq) (n : Nat),
    let len := ticks c b.portaMs
    let out : Freq := if len ≤ n + 1 then f
      else freqRound c (b.glideOut + (f - b.glideOut) * ((n + 1 : Nat) : Rat) / (len : Rat))
    (glideTick c)^[n + 1] (glideStart c f b) = { b with
      glideFrom := b.glideOut
      glideTo := f
      glideK := min (n + 1) len
      glideLen := len
      glideOut := out
      voice2 := { b.voice2 with oscFreq := out } }

/-- While portamento is on, the committed frequency of voice 2 after a control tick is the glide's output, whatever
a bend of the same tick wrote (R207). -/
def Obligations.GlideOverridesBendOnVoiceTwo : Prop :=
  ∀ s t : State, exec .ctick s = .next t → t.blk.portaOn = true →
    t.blk.committed.oscFreq2 = t.blk.glideOut ∧ t.blk.voice2.oscFreq = t.blk.glideOut

/-! ## The voice allocator (41_voice_allocator) -/

/-- With portamento off, a note-on (velocity not 0) and a key's rising edge take voice 1 when it is unoccupied, or
when voice 2 is occupied and was the most recent; otherwise voice 2 (R173). The assigned voice gets the
identity, its base frequency, the bent oscillator frequency, the level targets and the Attack stage from its
current level; it becomes the most recent voice, and nothing else changes (R174, R176). A scan whose sample gives a
rising edge does that with its own key's number, and besides writes only that key's registers (R143). -/
def Obligations.NoteTakesTheRuledVoice : Prop :=
  ∀ (c : Config) (b : Block) (ch : BitVec 4) (note vel : BitVec 7) (k : Fin 13), b.portaOn = false →
    let v : VoiceNo := if b.voice1.noteId = 129 ∨ (b.mostRecentVoice = .two ∧ b.voice2.noteId ≠ 129) then .one else .two
    let assigned (id : BitVec 8) (f : Freq) (lvl : Nat) : Block :=
      { b.setVoice v { b.voice v with
          noteId := id
          baseFreq := f
          oscFreq := freqRound c (f * b.ratio)
          env := { stage := .attack, level := (b.voice v).env.level, attackLevel := lvl, decayLevel := lvl,
                   start := (b.voice v).env.level, target := lvl, k := 0, len := ticks c b.attackMs } }
        with mostRecentVoice := v }
    let keyed := assigned (BitVec.ofNat 8 k.val) (keyFreq c b.octave k) (keyTargetLevel c)
    (vel ≠ 0 → dispatch c (.noteOn ch note vel) b =
      assigned (note.setWidth 8) (mtof c note) (min (2 * vel.toNat) 255)) ∧
    keyNoteOn c k b = keyed ∧
    (∀ sample : Bool, (b.key k).edge sample = some .rising →
      keyScan c k sample b = keyed.setKey k ((b.key k).scan sample))

/-- With portamento on (R172), a note-on of velocity not 0 takes voice 2 whatever the occupancy, starts the glide
to its frequency and leaves the oscillator frequency to it (R176, R205); a key's rising edge changes no voice
and does not change the most recent voice, and the scan that emits it has cleared the key's `avail`. -/
def Obligations.PortamentoForcesVoiceTwo : Prop :=
  ∀ (c : Config) (b : Block) (ch : BitVec 4) (note vel : BitVec 7) (k : Fin 13), b.portaOn = true →
    let lvl := min (2 * vel.toNat) 255
    (vel ≠ 0 → dispatch c (.noteOn ch note vel) b = { b with
      voice2 := { b.voice2 with
        noteId := note.setWidth 8
        baseFreq := mtof c note
        env := { stage := .attack, level := b.voice2.env.level, attackLevel := lvl, decayLevel := lvl,
                 start := b.voice2.env.level, target := lvl, k := 0, len := ticks c b.attackMs } }
      mostRecentVoice := .two
      glideFrom := b.glideOut
      glideTo := mtof c note
      glideK := 0
      glideLen := ticks c b.portaMs }) ∧
    keyNoteOn c k b = b ∧
    (∀ sample : Bool, (b.key k).edge sample = some .rising →
      keyScan c k sample b = b.setKey k ((b.key k).scan sample) ∧ ((b.key k).scan sample).avail = false)

/-- NOTEOFF (R178 to R180): each voice that holds the identity is emptied and enters Release from its level; the
most recent voice becomes 1 when voice 2 was released, else 2 when voice 1 was; nothing else changes. -/
def Obligations.NoteOffReleasesEveryHolder : Prop :=
  ∀ (c : Config) (b : Block) (ch : BitVec 4) (note vel : BitVec 7),
    let id : BitVec 8 := note.setWidth 8
    let released (x : Voice) : Voice := if x.noteId = id then
        { x with
          noteId := 129
          env := { x.env with stage := .release, start := x.env.level, target := 0, k := 0,
                              len := ticks c b.releaseMs } }
      else x
    dispatch c (.noteOff ch note vel) b = { b with
      voice1 := released b.voice1
      voice2 := released b.voice2
      mostRecentVoice := if b.voice2.noteId = id then .one else if b.voice1.noteId = id then .two
        else b.mostRecentVoice }

/-- A note-on of velocity 0 is a note-off (R170). -/
def Obligations.ZeroVelocityIsNoteOff : Prop :=
  ∀ (c : Config) (b : Block) (ch ch' : BitVec 4) (note vel : BitVec 7),
    dispatch c (.noteOn ch note 0) b = dispatch c (.noteOff ch' note vel) b

/-- Key `k` and MIDI note `k` are the same identity (R182): a scan in which key `k` falls does to the voices what
NOTEOFF of note `k` does, and that NOTEOFF leaves no voice holding the key's identity. -/
def Obligations.KeyAndNoteIdentitiesCollide : Prop :=
  ∀ (c : Config) (b : Block) (k : Fin 13) (sample : Bool) (ch : BitVec 4) (note vel : BitVec 7),
    note.toNat = k.val →
    ((b.key k).edge sample = some .falling →
      keyScan c k sample b = dispatch c (.noteOff ch note vel) (b.setKey k ((b.key k).scan sample))) ∧
    (∀ v, ((dispatch c (.noteOff ch note vel) b).voice v).noteId ≠ BitVec.ofNat 8 k.val)

/-! ## The envelopes (43_envelope) -/

/-- Entering a stage (R234) and what the stages are (R230): the stage starts at the current level, its counter at 0,
with the target and the length of the table; the level and the level targets do not change. -/
def Obligations.StageEntry : Prop :=
  ∀ (c : Config) (b : Block) (e : Env) (s : Stage),
    enter c b e s = { e with
      stage := s
      start := e.level
      k := 0
      target := match s with
        | .idle => 0 | .attack => e.attackLevel | .decay => e.decayLevel | .sustain => e.decayLevel | .release => 0
      len := match s with
        | .idle => 0 | .attack => ticks c b.attackMs | .decay => ticks c 100
        | .sustain => ticks c (sustainMs c) | .release => ticks c b.releaseMs } ∧
    Stage.attack.next = .decay ∧ Stage.decay.next = .sustain ∧ Stage.sustain.next = .release ∧
    Stage.release.next = .idle

/-- `ENV_TICK` of one voice (R235): Idle changes nothing; a tick that reaches the stage's length sets the target and
enters the next stage; any other sets the interpolated level. That voice's envelope is all it writes. -/
def Obligations.EnvTickWritesOneEnvelope : Prop :=
  ∀ (c : Config) (b : Block) (v : VoiceNo),
    let e := (b.voice v).env
    envTick c v b =
      if e.stage = .idle then b
      else if e.len ≤ e.k + 1 then b.withEnv v (enter c b { e with k := e.k + 1, level := e.target } e.stage.next)
      else b.withEnv v { e with
        k := e.k + 1, level := (e.start + Int.tdiv (((e.target : Int) - e.start) * (e.k + 1)) e.len).toNat }

/-- The two envelopes share only `attackMs` and `releaseMs` (R241 (f)): whatever else two blocks differ in, a voice's
tick takes the same envelope to the same envelope, so the tick of voice 2 after that of voice 1 is as in the block
before either. -/
def Obligations.EnvelopesShareOnlyTheirTimes : Prop :=
  ∀ (c : Config) (b d : Block) (v : VoiceNo), b.attackMs = d.attackMs → b.releaseMs = d.releaseMs →
    ((b.voice v).env = (d.voice v).env → ((envTick c v b).voice v).env = ((envTick c v d).voice v).env) ∧
    ((envTick c .two (envTick c .one b)).voice v).env = ((envTick c v b).voice v).env ∧
    envTick c .two (envTick c .one b) = envTick c .one (envTick c .two b)

/-- A stage of length `len` (R235): from its entry, tick `n + 1` before the last sets the interpolated level and
stays in the stage; the last tick, which is the first where `len` is 0, sets the target and enters the next
stage. Idle holds (R237). All that any of these ticks writes is that voice's envelope. -/
def Obligations.StageRunsItsLength : Prop :=
  ∀ (c : Config) (b : Block) (v : VoiceNo),
    let e := (b.voice v).env
    (e.stage = .idle → ∀ n, (envTick c v)^[n] b = b) ∧
    (e.stage ≠ .idle → e.k = 0 →
      (∀ n, n + 1 < e.len → (envTick c v)^[n + 1] b = b.withEnv v
        { e with k := n + 1, level := (e.start + Int.tdiv ((e.target - e.start) * ((n + 1 : Nat) : Int)) e.len).toNat }) ∧
      (envTick c v)^[max 1 e.len] b =
        b.withEnv v (enter c b { e with k := max 1 e.len, level := e.target } e.stage.next))

/-- The interpolation law (R236): the level that a tick within a stage leaves is exactly the truncated integer of the
rule, lies between the ends of the stage, is never below the straight line on a falling ramp and never above it on
a rising one; from ends in 0..255 it stays in 0..255, and the product is within `255 * len`. -/
def Obligations.LevelStaysBetweenItsEnds : Prop :=
  ∀ (c : Config) (b : Block) (v : VoiceNo),
    let e := (b.voice v).env
    e.stage ≠ .idle → e.k + 1 < e.len →
    let l := ((envTick c v b).voice v).env.level
    (l : Int) = e.start + Int.tdiv (((e.target : Int) - e.start) * (e.k + 1)) e.len ∧
    min e.start e.target ≤ l ∧ l ≤ max e.start e.target ∧
    (e.target ≤ e.start → e.start * e.len ≤ l * e.len + (e.start - e.target) * (e.k + 1)) ∧
    (e.start ≤ e.target → l * e.len ≤ e.start * e.len + (e.target - e.start) * (e.k + 1)) ∧
    (e.start ≤ 255 → e.target ≤ 255 → l ≤ 255 ∧
      -(255 * (e.len : Int)) ≤ ((e.target : Int) - e.start) * (e.k + 1) ∧
      ((e.target : Int) - e.start) * (e.k + 1) ≤ 255 * e.len)

/-- Sustain ends (R238): after the ticks its length still has, or one where it has none, the envelope enters
Release on its own, and after the length of that it is Idle at level 0. The voice stays occupied: its identity, like
everything but its envelope, is as before. -/
def Obligations.SustainEndsOnItsOwn : Prop :=
  ∀ (c : Config) (b : Block) (v : VoiceNo),
    let e := (b.voice v).env
    let left := max 1 (e.len - e.k)
    let release := ticks c b.releaseMs
    e.stage = .sustain →
    (envTick c v)^[left] b = b.withEnv v { e with
      stage := .release, level := e.target, start := e.target, target := 0, k := 0, len := release } ∧
    (envTick c v)^[max 1 release + left] b = b.withEnv v { e with
      stage := .idle, level := 0, start := 0, target := 0, k := 0, len := 0 } ∧
    (((envTick c v)^[max 1 release + left] b).voice v).noteId = (b.voice v).noteId

/-! ## The key scanner (40_key_scanner) -/

/-- The latch's truth table (R142). -/
def Obligations.LatchTruthTable : Prop :=
  ∀ a b c : Bool,
    (latch false a b c = true ↔ a = true ∧ b = true ∧ c = true) ∧
    (latch true a b c = false ↔ a = false ∧ b = false ∧ c = false)

/-- `KEYSCAN(k)` (R140): it shifts the sample into the history and latches; a rising edge clears `avail` and asks for a
note-on of key `k`, a falling edge sets `avail` and asks for the note-off of identity `k`, which is NOTEOFF of note
`k`; a scan with neither leaves `avail` and writes the key's registers only. -/
def Obligations.KeyScanActsByItsEdge : Prop :=
  ∀ (c : Config) (b : Block) (k : Fin 13) (sample : Bool),
    let x := b.key k
    let z := (x.z && (sample || x.a || x.b)) || (sample && x.a && x.b)
    let scanned (avail : Bool) : Block :=
      { b with keys := b.keys.set k { a := sample, b := x.a, c := x.b, z := z, avail := avail } }
    (z = true → x.avail = true →
      x.edge sample = some .rising ∧ keyScan c k sample b = keyNoteOn c k (scanned false)) ∧
    (z = false → x.avail = false → x.edge sample = some .falling ∧
      keyScan c k sample b = dispatch c (.noteOff 0 (BitVec.ofNat 7 k.val) 0) (scanned true)) ∧
    (z ≠ x.avail → x.edge sample = none ∧ keyScan c k sample b = scanned x.avail)

/-- Every control tick scans every key once (R140 to R144): the sample shifts into the history, the latch is the
equation's, a rising edge clears and a falling edge sets the availability. -/
def Obligations.EveryTickScansEveryKey : Prop :=
  ∀ s t : State, exec .ctick s = .next t → ∀ k : Fin 13,
    let x := s.blk.keys[k]
    let y := t.blk.keys[k]
    let a := s.ports.keys.getLsbD k.val
    y.a = a ∧ y.b = x.a ∧ y.c = x.b ∧ y.z = ((x.z && (a || x.a || x.b)) || (a && x.a && x.b)) ∧
    y.avail = if y.z = true ∧ x.avail = true then false else if y.z = false ∧ x.avail = false then true else x.avail

/-- Edges are exactly the changes of `Z` (R147), where `avail` is the complement of `Z` (R56), and a scan keeps it
so. -/
def Obligations.EdgesAreLatchChanges : Prop :=
  ∀ (x : Key) (sample : Bool), x.avail = !x.z →
    (x.scan sample).avail = !(x.scan sample).z ∧
    (x.edge sample = some .rising ↔ x.z = false ∧ (x.scan sample).z = true) ∧
    (x.edge sample = some .falling ↔ x.z = true ∧ (x.scan sample).z = false)

/-- Hysteresis (R146): a scan turns a key on exactly when the three latest samples are all 1, and off exactly when
they are all 0. Over whole sample sequences (R149): from reset, a sequence without three 1 samples in a row
never latches; from a latched key whose history is all 1, a sequence without three 0 samples in a row never
unlatches; three 1 samples latch any key and three 0 samples unlatch any key. -/
def Obligations.HysteresisOverSequences : Prop :=
  (∀ (x : Key) (sample : Bool),
    (x.z = false → ((x.scan sample).z = true ↔ sample = true ∧ x.a = true ∧ x.b = true)) ∧
    (x.z = true → ((x.scan sample).z = false ↔ sample = false ∧ x.a = false ∧ x.b = false))) ∧
  (∀ l : List Bool, threeInRow true l = false → (Key.reset.scans l).z = false) ∧
  (∀ l : List Bool, threeInRow false l = false →
    ((Key.mk true true true true false).scans l).z = true) ∧
  (∀ (x : Key) (l : List Bool),
    (x.scans (l ++ [true, true, true])).z = true ∧ (x.scans (l ++ [false, false, false])).z = false)

/-! ## The renderer (45_audio_renderer) -/

/-- ATICK (R290): both voices' oscillators and filters advance from the committed copy, the two gained samples are
summed and shifted; a sample that fits `OUT_BITS` goes out, and otherwise the tick is refused. Nothing else
changes. -/
def Obligations.AudioTickRendersCommittedCopy : Prop :=
  ∀ s : State,
    let c := Config.block
    let b := s.blk
    let sh := b.committed
    let o₁ := c.oscStep sh.waveSel b.voice1.oscPhase sh.oscFreq1
    let o₂ := c.oscStep sh.waveSel b.voice2.oscPhase sh.oscFreq2
    let y₁ := lpfStep c b.voice1.lpfState sh.cutoff c.resonance o₁.2
    let y₂ := lpfStep c b.voice2.lpfState sh.cutoff c.resonance o₂.2
    let p₁ : Int := y₁.2.toInt * (sh.volume.toNat * sh.level1 / 2 ^ 8 : Nat)
    let p₂ : Int := y₂.2.toInt * (sh.volume.toNat * sh.level2 / 2 ^ 8 : Nat)
    let out : Int := Int.fdiv (p₁ + p₂) (2 ^ c.outShift)
    exec .atick s =
      if -(2 ^ (outBits c - 1)) ≤ out ∧ out ≤ 2 ^ (outBits c - 1) - 1 then
        .next { s with
          blk := { b with
            voice1 := { b.voice1 with oscPhase := o₁.1, lpfState := y₁.1 }
            voice2 := { b.voice2 with oscPhase := o₂.1, lpfState := y₂.1 } }
          samples := s.samples ++ [out] }
      else .refused .outputOutOfRange

/-- An audio tick completes, with sample 0, whenever both committed gains are 0 (R292, R298 (a)): at volume 0, and
also when volume times level is below 256 for each voice. -/
def Obligations.SilentAudioTickCompletes : Prop :=
  ∀ s : State, s.blk.committed.volume.toNat * s.blk.committed.level1 < 256 →
    s.blk.committed.volume.toNat * s.blk.committed.level2 < 256 →
    exec .atick s = .next { s with blk := renderBlock Config.block s.blk, samples := s.samples ++ [0] }

/-- The gain (R292): with the level in its range the product is at most 32385 and the gain at most 126; it is 0
when either factor is 0 and when the product is below 256. -/
def Obligations.VoiceGainRange : Prop :=
  ∀ (volume : BitVec 7) (level : Nat), level ≤ 255 →
    volume.toNat * level ≤ 32385 ∧ voiceGain volume level ≤ 126 ∧
    voiceGain volume level = volume.toNat * level / 256 ∧
    (volume = 0 → voiceGain volume level = 0) ∧ voiceGain volume 0 = 0 ∧
    (volume.toNat * level < 256 → voiceGain volume level = 0)

/-- The output range (R297), with the committed levels in their range: the sum is at most `252 * 2^(FILT_BITS-1)` in
size, and a configuration with `FILT_BITS + 8 <= OUT_BITS + OUT_SHIFT` never gives a sample that does not fit. -/
def Obligations.WideOutputNeverOverflows : Prop :=
  ∀ (c : Config) (b : Block), b.committed.level1 ≤ 255 → b.committed.level2 ≤ 255 →
    |voiceSample c b.committed .one b.voice1 + voiceSample c b.committed .two b.voice2| ≤ 252 * 2 ^ (filtBits c - 1) ∧
    (filtBits c + 8 ≤ outBits c + c.outShift → outFits c (mixOut c b) = true)

/-- The renderer reads only the committed copy and its own phases and filter states (R295): two blocks that agree
on those give the same sample and the same next audio side, whatever the control side holds. -/
def Obligations.AudioTickSeesOnlyItsInputs : Prop :=
  ∀ s s' : State, s'.blk.committed = s.blk.committed →
    (∀ v, (s'.blk.voice v).oscPhase = (s.blk.voice v).oscPhase ∧ (s'.blk.voice v).lpfState = (s.blk.voice v).lpfState) →
    (exec .atick s = .refused .outputOutOfRange ∧ exec .atick s' = .refused .outputOutOfRange) ∨
    ∃ t t' y, exec .atick s = .next t ∧ exec .atick s' = .next t' ∧
      t.samples = s.samples ++ [y] ∧ t'.samples = s'.samples ++ [y] ∧
      ∀ v, (t'.blk.voice v).oscPhase = (t.blk.voice v).oscPhase ∧ (t'.blk.voice v).lpfState = (t.blk.voice v).lpfState

/-- Between two control ticks (R84, R295): over any run of audio ticks with no refusal (R385) every shared register
keeps its committed value, the control side and `EVQ` do not change, and each audio tick adds one sample to the
observation. -/
def Obligations.AudioRunKeepsControlSide : Prop :=
  ∀ (s : State) (ps : List Ports), s.cmd = ps.map (fun p => ⟨0x00000002, p⟩) → Unrefused ps.length s →
    ∃ t : State, Sys2Proof.core.run ps.length s = .next t ∧ t.evq = s.evq ∧
      (∃ one two : Phase × FilterState, t.blk = s.blk.withAudio one two) ∧
      (∃ ys : List Int, observation t = observation s ++ ys ∧ ys.length = ps.length)

/-! ## Reset (70_reset_and_hazards) -/

/-- RESET (R380, with the values of 10_state section 12): every register and both copies of the shared registers
take their reset values; `EVQ` and the ports, and the samples already produced, stay. -/
def Obligations.ResetRestoresEveryRegister : Prop :=
  ∀ s : State,
    let c := Config.block
    let voice : Voice :=
      { noteId := 129, baseFreq := freqRound c 0, oscFreq := freqRound c 0, oscPhase := c.oscPhaseReset,
        lpfState := c.lpfStateReset,
        env := { stage := .idle, level := 0, attackLevel := 0, decayLevel := 0, start := 0, target := 0, k := 0,
                 len := 0 } }
    exec .reset s = .next { s with
      blk := {
        idx := 0, voice1 := voice, voice2 := voice, waveSel := 1, mostRecentVoice := .one, volume := 127,
        keys := Vector.replicate 13 { a := false, b := false, c := false, z := false, avail := true },
        baseCutoff := (outLo c 0).toNat, octave := 0, attackMs := (outLo c 3).toNat,
        releaseMs := (outLo c 4).toNat, lfoWave := 1, lfoSpeed := outLo c 6, lfoDepth := 1,
        lfoPhase := c.lfoPhaseReset, cutoff := (outLo c 0).toNat, bend := 0, pbRange := 2, ratio := 1,
        portaOn := false, portaMs := 0, glideFrom := 0, glideTo := 0, glideOut := 0, glideK := 0, glideLen := 0,
        committed := { oscFreq1 := freqRound c 0, oscFreq2 := freqRound c 0, level1 := 0, level2 := 0,
                       cutoff := (outLo c 0).toNat, waveSel := 1, volume := 127 } } }

/-! ## The invariant -/

/-- The machine starts at a clean launch (R382, R386), and the reset state meets the invariant. -/
def Obligations.ResetMeetsTheDomains : Prop := CleanLaunch State.reset ∧ State.reset.Ok

/-- Every step keeps every register in the domain the spec gives it, both copies of the shared registers equal,
`EVQ` holding event words only and every sample within `OUT_BITS` (10_state, R56, R83, R236, R237, R317, R352). -/
def Obligations.StepKeepsTheDomains : Prop :=
  ∀ s t : State, s.Ok → step s = .next t → t.Ok
end

