-- ==== Sys2Proof/Laws/State.lean ====
section
/-! SUPPORT. One lemma per field per update of State, Block and Voice. -/

namespace Sys2Proof.Machine

/-! ## Reading a voice after writing one -/

@[simp] theorem Block.voice_setVoice_same (b : Block) (v : VoiceNo) (x : Voice) : (b.setVoice v x).voice v = x := by
  cases v <;> rfl

theorem Block.voice_setVoice_ne (b : Block) {v w : VoiceNo} (x : Voice) (h : w ≠ v) :
    (b.setVoice v x).voice w = b.voice w := by
  cases v <;> cases w <;> first | rfl | exact absurd rfl h

@[simp] theorem Block.voice_setVoice_one_two (b : Block) (x : Voice) : (b.setVoice .one x).voice .two = b.voice .two :=
  rfl

@[simp] theorem Block.voice_setVoice_two_one (b : Block) (x : Voice) : (b.setVoice .two x).voice .one = b.voice .one :=
  rfl

/-- Reading any voice after writing one. -/
theorem Block.voice_setVoice (b : Block) (v w : VoiceNo) (x : Voice) :
    (b.setVoice v x).voice w = if w = v then x else b.voice w := by
  cases v <;> cases w <;> rfl

@[simp] theorem Block.setVoice_setVoice (b : Block) (v : VoiceNo) (x y : Voice) :
    (b.setVoice v x).setVoice v y = b.setVoice v y := by
  cases v <;> rfl

@[simp] theorem Block.setVoice_voice (b : Block) (v : VoiceNo) : b.setVoice v (b.voice v) = b := by
  cases v <;> rfl

@[simp] theorem Block.voice_setEnv_same (b : Block) (v : VoiceNo) (e : Env) :
    (b.setEnv v e).voice v = { b.voice v with env := e } := by
  cases v <;> rfl

@[simp] theorem Block.voice_setOscFreq_same (b : Block) (v : VoiceNo) (f : Freq) :
    (b.setOscFreq v f).voice v = { b.voice v with oscFreq := f } := by
  cases v <;> rfl

@[simp] theorem Block.voice_setNoteId_same (b : Block) (v : VoiceNo) (id : BitVec 8) :
    (b.setNoteId v id).voice v = { b.voice v with noteId := id } := by
  cases v <;> rfl

theorem Block.voice_setEnv_ne (b : Block) {v w : VoiceNo} (e : Env) (h : w ≠ v) :
    (b.setEnv v e).voice w = b.voice w := Block.voice_setVoice_ne b _ h

theorem Block.voice_setOscFreq_ne (b : Block) {v w : VoiceNo} (f : Freq) (h : w ≠ v) :
    (b.setOscFreq v f).voice w = b.voice w := Block.voice_setVoice_ne b _ h

theorem Block.voice_setNoteId_ne (b : Block) {v w : VoiceNo} (id : BitVec 8) (h : w ≠ v) :
    (b.setNoteId v id).voice w = b.voice w := Block.voice_setVoice_ne b _ h

/-! ## Writing a voice leaves every other register alone -/

@[simp] theorem Block.setVoice_idx (b : Block) (v : VoiceNo) (x : Voice) : (b.setVoice v x).idx = b.idx := by
  cases v <;> rfl

@[simp] theorem Block.setVoice_waveSel (b : Block) (v : VoiceNo) (x : Voice) : (b.setVoice v x).waveSel = b.waveSel := by
  cases v <;> rfl

@[simp] theorem Block.setVoice_mostRecentVoice (b : Block) (v : VoiceNo) (x : Voice) : (b.setVoice v x).mostRecentVoice = b.mostRecentVoice := by
  cases v <;> rfl

@[simp] theorem Block.setVoice_volume (b : Block) (v : VoiceNo) (x : Voice) : (b.setVoice v x).volume = b.volume := by
  cases v <;> rfl

@[simp] theorem Block.setVoice_keys (b : Block) (v : VoiceNo) (x : Voice) : (b.setVoice v x).keys = b.keys := by
  cases v <;> rfl

@[simp] theorem Block.setVoice_baseCutoff (b : Block) (v : VoiceNo) (x : Voice) : (b.setVoice v x).baseCutoff = b.baseCutoff := by
  cases v <;> rfl

@[simp] theorem Block.setVoice_octave (b : Block) (v : VoiceNo) (x : Voice) : (b.setVoice v x).octave = b.octave := by
  cases v <;> rfl

@[simp] theorem Block.setVoice_attackMs (b : Block) (v : VoiceNo) (x : Voice) : (b.setVoice v x).attackMs = b.attackMs := by
  cases v <;> rfl

@[simp] theorem Block.setVoice_releaseMs (b : Block) (v : VoiceNo) (x : Voice) : (b.setVoice v x).releaseMs = b.releaseMs := by
  cases v <;> rfl

@[simp] theorem Block.setVoice_lfoWave (b : Block) (v : VoiceNo) (x : Voice) : (b.setVoice v x).lfoWave = b.lfoWave := by
  cases v <;> rfl

@[simp] theorem Block.setVoice_lfoSpeed (b : Block) (v : VoiceNo) (x : Voice) : (b.setVoice v x).lfoSpeed = b.lfoSpeed := by
  cases v <;> rfl

@[simp] theorem Block.setVoice_lfoDepth (b : Block) (v : VoiceNo) (x : Voice) : (b.setVoice v x).lfoDepth = b.lfoDepth := by
  cases v <;> rfl

@[simp] theorem Block.setVoice_lfoPhase (b : Block) (v : VoiceNo) (x : Voice) : (b.setVoice v x).lfoPhase = b.lfoPhase := by
  cases v <;> rfl

@[simp] theorem Block.setVoice_cutoff (b : Block) (v : VoiceNo) (x : Voice) : (b.setVoice v x).cutoff = b.cutoff := by
  cases v <;> rfl

@[simp] theorem Block.setVoice_bend (b : Block) (v : VoiceNo) (x : Voice) : (b.setVoice v x).bend = b.bend := by
  cases v <;> rfl

@[simp] theorem Block.setVoice_pbRange (b : Block) (v : VoiceNo) (x : Voice) : (b.setVoice v x).pbRange = b.pbRange := by
  cases v <;> rfl

@[simp] theorem Block.setVoice_ratio (b : Block) (v : VoiceNo) (x : Voice) : (b.setVoice v x).ratio = b.ratio := by
  cases v <;> rfl

@[simp] theorem Block.setVoice_portaOn (b : Block) (v : VoiceNo) (x : Voice) : (b.setVoice v x).portaOn = b.portaOn := by
  cases v <;> rfl

@[simp] theorem Block.setVoice_portaMs (b : Block) (v : VoiceNo) (x : Voice) : (b.setVoice v x).portaMs = b.portaMs := by
  cases v <;> rfl

@[simp] theorem Block.setVoice_glideFrom (b : Block) (v : VoiceNo) (x : Voice) : (b.setVoice v x).glideFrom = b.glideFrom := by
  cases v <;> rfl

@[simp] theorem Block.setVoice_glideTo (b : Block) (v : VoiceNo) (x : Voice) : (b.setVoice v x).glideTo = b.glideTo := by
  cases v <;> rfl

@[simp] theorem Block.setVoice_glideOut (b : Block) (v : VoiceNo) (x : Voice) : (b.setVoice v x).glideOut = b.glideOut := by
  cases v <;> rfl

@[simp] theorem Block.setVoice_glideK (b : Block) (v : VoiceNo) (x : Voice) : (b.setVoice v x).glideK = b.glideK := by
  cases v <;> rfl

@[simp] theorem Block.setVoice_glideLen (b : Block) (v : VoiceNo) (x : Voice) : (b.setVoice v x).glideLen = b.glideLen := by
  cases v <;> rfl

@[simp] theorem Block.setVoice_committed (b : Block) (v : VoiceNo) (x : Voice) : (b.setVoice v x).committed = b.committed := by
  cases v <;> rfl

@[simp] theorem Block.setEnv_idx (b : Block) (v : VoiceNo) (e : Env) : (b.setEnv v e).idx = b.idx :=
  Block.setVoice_idx ..

@[simp] theorem Block.setEnv_waveSel (b : Block) (v : VoiceNo) (e : Env) : (b.setEnv v e).waveSel = b.waveSel :=
  Block.setVoice_waveSel ..

@[simp] theorem Block.setEnv_mostRecentVoice (b : Block) (v : VoiceNo) (e : Env) : (b.setEnv v e).mostRecentVoice = b.mostRecentVoice :=
  Block.setVoice_mostRecentVoice ..

@[simp] theorem Block.setEnv_volume (b : Block) (v : VoiceNo) (e : Env) : (b.setEnv v e).volume = b.volume :=
  Block.setVoice_volume ..

@[simp] theorem Block.setEnv_keys (b : Block) (v : VoiceNo) (e : Env) : (b.setEnv v e).keys = b.keys :=
  Block.setVoice_keys ..

@[simp] theorem Block.setEnv_baseCutoff (b : Block) (v : VoiceNo) (e : Env) : (b.setEnv v e).baseCutoff = b.baseCutoff :=
  Block.setVoice_baseCutoff ..

@[simp] theorem Block.setEnv_octave (b : Block) (v : VoiceNo) (e : Env) : (b.setEnv v e).octave = b.octave :=
  Block.setVoice_octave ..

@[simp] theorem Block.setEnv_attackMs (b : Block) (v : VoiceNo) (e : Env) : (b.setEnv v e).attackMs = b.attackMs :=
  Block.setVoice_attackMs ..

@[simp] theorem Block.setEnv_releaseMs (b : Block) (v : VoiceNo) (e : Env) : (b.setEnv v e).releaseMs = b.releaseMs :=
  Block.setVoice_releaseMs ..

@[simp] theorem Block.setEnv_lfoWave (b : Block) (v : VoiceNo) (e : Env) : (b.setEnv v e).lfoWave = b.lfoWave :=
  Block.setVoice_lfoWave ..

@[simp] theorem Block.setEnv_lfoSpeed (b : Block) (v : VoiceNo) (e : Env) : (b.setEnv v e).lfoSpeed = b.lfoSpeed :=
  Block.setVoice_lfoSpeed ..

@[simp] theorem Block.setEnv_lfoDepth (b : Block) (v : VoiceNo) (e : Env) : (b.setEnv v e).lfoDepth = b.lfoDepth :=
  Block.setVoice_lfoDepth ..

@[simp] theorem Block.setEnv_lfoPhase (b : Block) (v : VoiceNo) (e : Env) : (b.setEnv v e).lfoPhase = b.lfoPhase :=
  Block.setVoice_lfoPhase ..

@[simp] theorem Block.setEnv_cutoff (b : Block) (v : VoiceNo) (e : Env) : (b.setEnv v e).cutoff = b.cutoff :=
  Block.setVoice_cutoff ..

@[simp] theorem Block.setEnv_bend (b : Block) (v : VoiceNo) (e : Env) : (b.setEnv v e).bend = b.bend :=
  Block.setVoice_bend ..

@[simp] theorem Block.setEnv_pbRange (b : Block) (v : VoiceNo) (e : Env) : (b.setEnv v e).pbRange = b.pbRange :=
  Block.setVoice_pbRange ..

@[simp] theorem Block.setEnv_ratio (b : Block) (v : VoiceNo) (e : Env) : (b.setEnv v e).ratio = b.ratio :=
  Block.setVoice_ratio ..

@[simp] theorem Block.setEnv_portaOn (b : Block) (v : VoiceNo) (e : Env) : (b.setEnv v e).portaOn = b.portaOn :=
  Block.setVoice_portaOn ..

@[simp] theorem Block.setEnv_portaMs (b : Block) (v : VoiceNo) (e : Env) : (b.setEnv v e).portaMs = b.portaMs :=
  Block.setVoice_portaMs ..

@[simp] theorem Block.setEnv_glideFrom (b : Block) (v : VoiceNo) (e : Env) : (b.setEnv v e).glideFrom = b.glideFrom :=
  Block.setVoice_glideFrom ..

@[simp] theorem Block.setEnv_glideTo (b : Block) (v : VoiceNo) (e : Env) : (b.setEnv v e).glideTo = b.glideTo :=
  Block.setVoice_glideTo ..

@[simp] theorem Block.setEnv_glideOut (b : Block) (v : VoiceNo) (e : Env) : (b.setEnv v e).glideOut = b.glideOut :=
  Block.setVoice_glideOut ..

@[simp] theorem Block.setEnv_glideK (b : Block) (v : VoiceNo) (e : Env) : (b.setEnv v e).glideK = b.glideK :=
  Block.setVoice_glideK ..

@[simp] theorem Block.setEnv_glideLen (b : Block) (v : VoiceNo) (e : Env) : (b.setEnv v e).glideLen = b.glideLen :=
  Block.setVoice_glideLen ..

@[simp] theorem Block.setEnv_committed (b : Block) (v : VoiceNo) (e : Env) : (b.setEnv v e).committed = b.committed :=
  Block.setVoice_committed ..

@[simp] theorem Block.setOscFreq_idx (b : Block) (v : VoiceNo) (f : Freq) : (b.setOscFreq v f).idx = b.idx :=
  Block.setVoice_idx ..

@[simp] theorem Block.setOscFreq_waveSel (b : Block) (v : VoiceNo) (f : Freq) : (b.setOscFreq v f).waveSel = b.waveSel :=
  Block.setVoice_waveSel ..

@[simp] theorem Block.setOscFreq_mostRecentVoice (b : Block) (v : VoiceNo) (f : Freq) : (b.setOscFreq v f).mostRecentVoice = b.mostRecentVoice :=
  Block.setVoice_mostRecentVoice ..

@[simp] theorem Block.setOscFreq_volume (b : Block) (v : VoiceNo) (f : Freq) : (b.setOscFreq v f).volume = b.volume :=
  Block.setVoice_volume ..

@[simp] theorem Block.setOscFreq_keys (b : Block) (v : VoiceNo) (f : Freq) : (b.setOscFreq v f).keys = b.keys :=
  Block.setVoice_keys ..

@[simp] theorem Block.setOscFreq_baseCutoff (b : Block) (v : VoiceNo) (f : Freq) : (b.setOscFreq v f).baseCutoff = b.baseCutoff :=
  Block.setVoice_baseCutoff ..

@[simp] theorem Block.setOscFreq_octave (b : Block) (v : VoiceNo) (f : Freq) : (b.setOscFreq v f).octave = b.octave :=
  Block.setVoice_octave ..

@[simp] theorem Block.setOscFreq_attackMs (b : Block) (v : VoiceNo) (f : Freq) : (b.setOscFreq v f).attackMs = b.attackMs :=
  Block.setVoice_attackMs ..

@[simp] theorem Block.setOscFreq_releaseMs (b : Block) (v : VoiceNo) (f : Freq) : (b.setOscFreq v f).releaseMs = b.releaseMs :=
  Block.setVoice_releaseMs ..

@[simp] theorem Block.setOscFreq_lfoWave (b : Block) (v : VoiceNo) (f : Freq) : (b.setOscFreq v f).lfoWave = b.lfoWave :=
  Block.setVoice_lfoWave ..

@[simp] theorem Block.setOscFreq_lfoSpeed (b : Block) (v : VoiceNo) (f : Freq) : (b.setOscFreq v f).lfoSpeed = b.lfoSpeed :=
  Block.setVoice_lfoSpeed ..

@[simp] theorem Block.setOscFreq_lfoDepth (b : Block) (v : VoiceNo) (f : Freq) : (b.setOscFreq v f).lfoDepth = b.lfoDepth :=
  Block.setVoice_lfoDepth ..

@[simp] theorem Block.setOscFreq_lfoPhase (b : Block) (v : VoiceNo) (f : Freq) : (b.setOscFreq v f).lfoPhase = b.lfoPhase :=
  Block.setVoice_lfoPhase ..

@[simp] theorem Block.setOscFreq_cutoff (b : Block) (v : VoiceNo) (f : Freq) : (b.setOscFreq v f).cutoff = b.cutoff :=
  Block.setVoice_cutoff ..

@[simp] theorem Block.setOscFreq_bend (b : Block) (v : VoiceNo) (f : Freq) : (b.setOscFreq v f).bend = b.bend :=
  Block.setVoice_bend ..

@[simp] theorem Block.setOscFreq_pbRange (b : Block) (v : VoiceNo) (f : Freq) : (b.setOscFreq v f).pbRange = b.pbRange :=
  Block.setVoice_pbRange ..

@[simp] theorem Block.setOscFreq_ratio (b : Block) (v : VoiceNo) (f : Freq) : (b.setOscFreq v f).ratio = b.ratio :=
  Block.setVoice_ratio ..

@[simp] theorem Block.setOscFreq_portaOn (b : Block) (v : VoiceNo) (f : Freq) : (b.setOscFreq v f).portaOn = b.portaOn :=
  Block.setVoice_portaOn ..

@[simp] theorem Block.setOscFreq_portaMs (b : Block) (v : VoiceNo) (f : Freq) : (b.setOscFreq v f).portaMs = b.portaMs :=
  Block.setVoice_portaMs ..

@[simp] theorem Block.setOscFreq_glideFrom (b : Block) (v : VoiceNo) (f : Freq) : (b.setOscFreq v f).glideFrom = b.glideFrom :=
  Block.setVoice_glideFrom ..

@[simp] theorem Block.setOscFreq_glideTo (b : Block) (v : VoiceNo) (f : Freq) : (b.setOscFreq v f).glideTo = b.glideTo :=
  Block.setVoice_glideTo ..

@[simp] theorem Block.setOscFreq_glideOut (b : Block) (v : VoiceNo) (f : Freq) : (b.setOscFreq v f).glideOut = b.glideOut :=
  Block.setVoice_glideOut ..

@[simp] theorem Block.setOscFreq_glideK (b : Block) (v : VoiceNo) (f : Freq) : (b.setOscFreq v f).glideK = b.glideK :=
  Block.setVoice_glideK ..

@[simp] theorem Block.setOscFreq_glideLen (b : Block) (v : VoiceNo) (f : Freq) : (b.setOscFreq v f).glideLen = b.glideLen :=
  Block.setVoice_glideLen ..

@[simp] theorem Block.setOscFreq_committed (b : Block) (v : VoiceNo) (f : Freq) : (b.setOscFreq v f).committed = b.committed :=
  Block.setVoice_committed ..

@[simp] theorem Block.setNoteId_idx (b : Block) (v : VoiceNo) (id : BitVec 8) : (b.setNoteId v id).idx = b.idx :=
  Block.setVoice_idx ..

@[simp] theorem Block.setNoteId_waveSel (b : Block) (v : VoiceNo) (id : BitVec 8) : (b.setNoteId v id).waveSel = b.waveSel :=
  Block.setVoice_waveSel ..

@[simp] theorem Block.setNoteId_mostRecentVoice (b : Block) (v : VoiceNo) (id : BitVec 8) : (b.setNoteId v id).mostRecentVoice = b.mostRecentVoice :=
  Block.setVoice_mostRecentVoice ..

@[simp] theorem Block.setNoteId_volume (b : Block) (v : VoiceNo) (id : BitVec 8) : (b.setNoteId v id).volume = b.volume :=
  Block.setVoice_volume ..

@[simp] theorem Block.setNoteId_keys (b : Block) (v : VoiceNo) (id : BitVec 8) : (b.setNoteId v id).keys = b.keys :=
  Block.setVoice_keys ..

@[simp] theorem Block.setNoteId_baseCutoff (b : Block) (v : VoiceNo) (id : BitVec 8) : (b.setNoteId v id).baseCutoff = b.baseCutoff :=
  Block.setVoice_baseCutoff ..

@[simp] theorem Block.setNoteId_octave (b : Block) (v : VoiceNo) (id : BitVec 8) : (b.setNoteId v id).octave = b.octave :=
  Block.setVoice_octave ..

@[simp] theorem Block.setNoteId_attackMs (b : Block) (v : VoiceNo) (id : BitVec 8) : (b.setNoteId v id).attackMs = b.attackMs :=
  Block.setVoice_attackMs ..

@[simp] theorem Block.setNoteId_releaseMs (b : Block) (v : VoiceNo) (id : BitVec 8) : (b.setNoteId v id).releaseMs = b.releaseMs :=
  Block.setVoice_releaseMs ..

@[simp] theorem Block.setNoteId_lfoWave (b : Block) (v : VoiceNo) (id : BitVec 8) : (b.setNoteId v id).lfoWave = b.lfoWave :=
  Block.setVoice_lfoWave ..

@[simp] theorem Block.setNoteId_lfoSpeed (b : Block) (v : VoiceNo) (id : BitVec 8) : (b.setNoteId v id).lfoSpeed = b.lfoSpeed :=
  Block.setVoice_lfoSpeed ..

@[simp] theorem Block.setNoteId_lfoDepth (b : Block) (v : VoiceNo) (id : BitVec 8) : (b.setNoteId v id).lfoDepth = b.lfoDepth :=
  Block.setVoice_lfoDepth ..

@[simp] theorem Block.setNoteId_lfoPhase (b : Block) (v : VoiceNo) (id : BitVec 8) : (b.setNoteId v id).lfoPhase = b.lfoPhase :=
  Block.setVoice_lfoPhase ..

@[simp] theorem Block.setNoteId_cutoff (b : Block) (v : VoiceNo) (id : BitVec 8) : (b.setNoteId v id).cutoff = b.cutoff :=
  Block.setVoice_cutoff ..

@[simp] theorem Block.setNoteId_bend (b : Block) (v : VoiceNo) (id : BitVec 8) : (b.setNoteId v id).bend = b.bend :=
  Block.setVoice_bend ..

@[simp] theorem Block.setNoteId_pbRange (b : Block) (v : VoiceNo) (id : BitVec 8) : (b.setNoteId v id).pbRange = b.pbRange :=
  Block.setVoice_pbRange ..

@[simp] theorem Block.setNoteId_ratio (b : Block) (v : VoiceNo) (id : BitVec 8) : (b.setNoteId v id).ratio = b.ratio :=
  Block.setVoice_ratio ..

@[simp] theorem Block.setNoteId_portaOn (b : Block) (v : VoiceNo) (id : BitVec 8) : (b.setNoteId v id).portaOn = b.portaOn :=
  Block.setVoice_portaOn ..

@[simp] theorem Block.setNoteId_portaMs (b : Block) (v : VoiceNo) (id : BitVec 8) : (b.setNoteId v id).portaMs = b.portaMs :=
  Block.setVoice_portaMs ..

@[simp] theorem Block.setNoteId_glideFrom (b : Block) (v : VoiceNo) (id : BitVec 8) : (b.setNoteId v id).glideFrom = b.glideFrom :=
  Block.setVoice_glideFrom ..

@[simp] theorem Block.setNoteId_glideTo (b : Block) (v : VoiceNo) (id : BitVec 8) : (b.setNoteId v id).glideTo = b.glideTo :=
  Block.setVoice_glideTo ..

@[simp] theorem Block.setNoteId_glideOut (b : Block) (v : VoiceNo) (id : BitVec 8) : (b.setNoteId v id).glideOut = b.glideOut :=
  Block.setVoice_glideOut ..

@[simp] theorem Block.setNoteId_glideK (b : Block) (v : VoiceNo) (id : BitVec 8) : (b.setNoteId v id).glideK = b.glideK :=
  Block.setVoice_glideK ..

@[simp] theorem Block.setNoteId_glideLen (b : Block) (v : VoiceNo) (id : BitVec 8) : (b.setNoteId v id).glideLen = b.glideLen :=
  Block.setVoice_glideLen ..

@[simp] theorem Block.setNoteId_committed (b : Block) (v : VoiceNo) (id : BitVec 8) : (b.setNoteId v id).committed = b.committed :=
  Block.setVoice_committed ..

/-! ## Reading and writing a key -/

@[simp] theorem Block.key_setKey_same (b : Block) (k : Fin 13) (x : Key) : (b.setKey k x).key k = x := by
  simp [Block.key, Block.setKey]

theorem Block.key_setKey_ne (b : Block) {j k : Fin 13} (x : Key) (h : j ≠ k) : (b.setKey k x).key j = b.key j := by
  have : k.val ≠ j.val := fun e => h (Fin.ext e.symm)
  simp [Block.key, Block.setKey, this]

@[simp] theorem Block.key_setVoice (b : Block) (v : VoiceNo) (x : Voice) (k : Fin 13) :
    (b.setVoice v x).key k = b.key k := by
  simp [Block.key]

@[simp] theorem Block.voice_setKey (b : Block) (k : Fin 13) (x : Key) (v : VoiceNo) :
    (b.setKey k x).voice v = b.voice v := by
  cases v <;> rfl

@[simp] theorem Block.setKey_voice1 (b : Block) (k : Fin 13) (x : Key) : (b.setKey k x).voice1 = b.voice1 := rfl

@[simp] theorem Block.setKey_voice2 (b : Block) (k : Fin 13) (x : Key) : (b.setKey k x).voice2 = b.voice2 := rfl

@[simp] theorem Block.setKey_idx (b : Block) (k : Fin 13) (x : Key) : (b.setKey k x).idx = b.idx := rfl

@[simp] theorem Block.setKey_waveSel (b : Block) (k : Fin 13) (x : Key) : (b.setKey k x).waveSel = b.waveSel := rfl

@[simp] theorem Block.setKey_mostRecentVoice (b : Block) (k : Fin 13) (x : Key) : (b.setKey k x).mostRecentVoice = b.mostRecentVoice := rfl

@[simp] theorem Block.setKey_volume (b : Block) (k : Fin 13) (x : Key) : (b.setKey k x).volume = b.volume := rfl

@[simp] theorem Block.setKey_baseCutoff (b : Block) (k : Fin 13) (x : Key) : (b.setKey k x).baseCutoff = b.baseCutoff := rfl

@[simp] theorem Block.setKey_octave (b : Block) (k : Fin 13) (x : Key) : (b.setKey k x).octave = b.octave := rfl

@[simp] theorem Block.setKey_attackMs (b : Block) (k : Fin 13) (x : Key) : (b.setKey k x).attackMs = b.attackMs := rfl

@[simp] theorem Block.setKey_releaseMs (b : Block) (k : Fin 13) (x : Key) : (b.setKey k x).releaseMs = b.releaseMs := rfl

@[simp] theorem Block.setKey_lfoWave (b : Block) (k : Fin 13) (x : Key) : (b.setKey k x).lfoWave = b.lfoWave := rfl

@[simp] theorem Block.setKey_lfoSpeed (b : Block) (k : Fin 13) (x : Key) : (b.setKey k x).lfoSpeed = b.lfoSpeed := rfl

@[simp] theorem Block.setKey_lfoDepth (b : Block) (k : Fin 13) (x : Key) : (b.setKey k x).lfoDepth = b.lfoDepth := rfl

@[simp] theorem Block.setKey_lfoPhase (b : Block) (k : Fin 13) (x : Key) : (b.setKey k x).lfoPhase = b.lfoPhase := rfl

@[simp] theorem Block.setKey_cutoff (b : Block) (k : Fin 13) (x : Key) : (b.setKey k x).cutoff = b.cutoff := rfl

@[simp] theorem Block.setKey_bend (b : Block) (k : Fin 13) (x : Key) : (b.setKey k x).bend = b.bend := rfl

@[simp] theorem Block.setKey_pbRange (b : Block) (k : Fin 13) (x : Key) : (b.setKey k x).pbRange = b.pbRange := rfl

@[simp] theorem Block.setKey_ratio (b : Block) (k : Fin 13) (x : Key) : (b.setKey k x).ratio = b.ratio := rfl

@[simp] theorem Block.setKey_portaOn (b : Block) (k : Fin 13) (x : Key) : (b.setKey k x).portaOn = b.portaOn := rfl

@[simp] theorem Block.setKey_portaMs (b : Block) (k : Fin 13) (x : Key) : (b.setKey k x).portaMs = b.portaMs := rfl

@[simp] theorem Block.setKey_glideFrom (b : Block) (k : Fin 13) (x : Key) : (b.setKey k x).glideFrom = b.glideFrom := rfl

@[simp] theorem Block.setKey_glideTo (b : Block) (k : Fin 13) (x : Key) : (b.setKey k x).glideTo = b.glideTo := rfl

@[simp] theorem Block.setKey_glideOut (b : Block) (k : Fin 13) (x : Key) : (b.setKey k x).glideOut = b.glideOut := rfl

@[simp] theorem Block.setKey_glideK (b : Block) (k : Fin 13) (x : Key) : (b.setKey k x).glideK = b.glideK := rfl

@[simp] theorem Block.setKey_glideLen (b : Block) (k : Fin 13) (x : Key) : (b.setKey k x).glideLen = b.glideLen := rfl

@[simp] theorem Block.setKey_committed (b : Block) (k : Fin 13) (x : Key) : (b.setKey k x).committed = b.committed := rfl

/-! ## The commit writes the committed copy only (20_memory R83) -/

@[simp] theorem Block.commit_committed (b : Block) : b.commit.committed = b.shared := rfl

@[simp] theorem Block.commit_shared (b : Block) : b.commit.shared = b.shared := rfl

@[simp] theorem Block.commit_voice (b : Block) (v : VoiceNo) : b.commit.voice v = b.voice v := by
  cases v <;> rfl

@[simp] theorem Block.commit_key (b : Block) (k : Fin 13) : b.commit.key k = b.key k := rfl

@[simp] theorem Block.commit_voice1 (b : Block) : b.commit.voice1 = b.voice1 := rfl

@[simp] theorem Block.commit_voice2 (b : Block) : b.commit.voice2 = b.voice2 := rfl

@[simp] theorem Block.commit_idx (b : Block) : b.commit.idx = b.idx := rfl

@[simp] theorem Block.commit_waveSel (b : Block) : b.commit.waveSel = b.waveSel := rfl

@[simp] theorem Block.commit_mostRecentVoice (b : Block) : b.commit.mostRecentVoice = b.mostRecentVoice := rfl

@[simp] theorem Block.commit_volume (b : Block) : b.commit.volume = b.volume := rfl

@[simp] theorem Block.commit_keys (b : Block) : b.commit.keys = b.keys := rfl

@[simp] theorem Block.commit_baseCutoff (b : Block) : b.commit.baseCutoff = b.baseCutoff := rfl

@[simp] theorem Block.commit_octave (b : Block) : b.commit.octave = b.octave := rfl

@[simp] theorem Block.commit_attackMs (b : Block) : b.commit.attackMs = b.attackMs := rfl

@[simp] theorem Block.commit_releaseMs (b : Block) : b.commit.releaseMs = b.releaseMs := rfl

@[simp] theorem Block.commit_lfoWave (b : Block) : b.commit.lfoWave = b.lfoWave := rfl

@[simp] theorem Block.commit_lfoSpeed (b : Block) : b.commit.lfoSpeed = b.lfoSpeed := rfl

@[simp] theorem Block.commit_lfoDepth (b : Block) : b.commit.lfoDepth = b.lfoDepth := rfl

@[simp] theorem Block.commit_lfoPhase (b : Block) : b.commit.lfoPhase = b.lfoPhase := rfl

@[simp] theorem Block.commit_cutoff (b : Block) : b.commit.cutoff = b.cutoff := rfl

@[simp] theorem Block.commit_bend (b : Block) : b.commit.bend = b.bend := rfl

@[simp] theorem Block.commit_pbRange (b : Block) : b.commit.pbRange = b.pbRange := rfl

@[simp] theorem Block.commit_ratio (b : Block) : b.commit.ratio = b.ratio := rfl

@[simp] theorem Block.commit_portaOn (b : Block) : b.commit.portaOn = b.portaOn := rfl

@[simp] theorem Block.commit_portaMs (b : Block) : b.commit.portaMs = b.portaMs := rfl

@[simp] theorem Block.commit_glideFrom (b : Block) : b.commit.glideFrom = b.glideFrom := rfl

@[simp] theorem Block.commit_glideTo (b : Block) : b.commit.glideTo = b.glideTo := rfl

@[simp] theorem Block.commit_glideOut (b : Block) : b.commit.glideOut = b.glideOut := rfl

@[simp] theorem Block.commit_glideK (b : Block) : b.commit.glideK = b.glideK := rfl

@[simp] theorem Block.commit_glideLen (b : Block) : b.commit.glideLen = b.glideLen := rfl

/-! ## The queue and the ports -/

@[simp] theorem State.enqueue_blk (s : State) (e : Event) : (s.enqueue e).blk = s.blk := rfl

@[simp] theorem State.enqueue_evq (s : State) (e : Event) : (s.enqueue e).evq = s.evq ++ [e] := rfl

@[simp] theorem State.enqueue_ports (s : State) (e : Event) : (s.enqueue e).ports = s.ports := rfl

@[simp] theorem State.enqueue_cmd (s : State) (e : Event) : (s.enqueue e).cmd = s.cmd := rfl

@[simp] theorem State.enqueue_samples (s : State) (e : Event) : (s.enqueue e).samples = s.samples := rfl

@[simp] theorem State.present_blk (s : State) (p : Presented) (rest : List Presented) : (s.present p rest).blk = s.blk := rfl

@[simp] theorem State.present_evq (s : State) (p : Presented) (rest : List Presented) : (s.present p rest).evq = s.evq := rfl

@[simp] theorem State.present_ports (s : State) (p : Presented) (rest : List Presented) : (s.present p rest).ports = p.ports := rfl

@[simp] theorem State.present_cmd (s : State) (p : Presented) (rest : List Presented) : (s.present p rest).cmd = rest := rfl

@[simp] theorem State.present_samples (s : State) (p : Presented) (rest : List Presented) : (s.present p rest).samples = s.samples := rfl

@[simp] theorem State.offer_blk (s : State) (w : Word) : (s.offer w).blk = s.blk := rfl

@[simp] theorem State.offer_evq (s : State) (w : Word) : (s.offer w).evq = s.evq := rfl

@[simp] theorem State.offer_ports (s : State) (w : Word) : (s.offer w).ports = s.ports := rfl

@[simp] theorem State.offer_cmd (s : State) (w : Word) : (s.offer w).cmd = ⟨w, s.ports⟩ :: s.cmd := rfl

@[simp] theorem State.offer_samples (s : State) (w : Word) : (s.offer w).samples = s.samples := rfl

end Sys2Proof.Machine
end

