-- ==== Sys2Proof/Laws/Audio.lean ====
section
/-! SUPPORT. The audio tick as one operation (45_audio_renderer R290). -/

namespace Sys2Proof.Machine

/-- The range of `OUT_BITS` signed bits (45_audio_renderer R290). -/
theorem outFits_iff (c : Config) (y : Int) :
    outFits c y = true ↔ -(2 ^ (outBits c - 1)) ≤ y ∧ y ≤ 2 ^ (outBits c - 1) - 1 := by
  simp [outFits]

/-- ATICK where the sample fits. -/
theorem exec_atick_of_fits {s : State} (h : outFits Config.block (mixOut Config.block s.blk) = true) :
    exec .atick s = .next { s with
      blk := renderBlock Config.block s.blk
      samples := s.samples ++ [mixOut Config.block s.blk] } :=
  if_pos h

/-- ATICK where the sample does not fit (45_audio_renderer R297). -/
theorem exec_atick_of_not_fits {s : State} (h : ¬ outFits Config.block (mixOut Config.block s.blk) = true) :
    exec .atick s = .refused .outputOutOfRange :=
  if_neg h

/-- The state after an audio tick. -/
theorem atick_next {s t : State} (h : exec .atick s = .next t) :
    outFits Config.block (mixOut Config.block s.blk) = true ∧ t = { s with
      blk := renderBlock Config.block s.blk
      samples := s.samples ++ [mixOut Config.block s.blk] } := by
  by_cases hf : outFits Config.block (mixOut Config.block s.blk) = true
  · rw [exec_atick_of_fits hf] at h
    exact ⟨hf, (Host.Outcome.next.inj h).symm⟩
  · rw [exec_atick_of_not_fits hf] at h
    exact absurd h (by simp)

/-- The sample of a voice whose gain is 0 is 0 (45_audio_renderer R292). -/
theorem voiceSample_of_gain {c : Config} {sh : Shared} {v : VoiceNo} {x : Voice}
    (h : voiceGain sh.volume (sh.level v) = 0) : voiceSample c sh v x = 0 := by
  simp [voiceSample, h]

end Sys2Proof.Machine
end

