-- ==== Sys2Proof/Laws/Params.lean ====
section
/-! SUPPORT. The domains of the parameters (00_scope R8), tick counts (R10) and the mapper's range (46_scheduler R320). -/

namespace Sys2Proof.Machine

variable (c : Config)

/-! ## Non-negative values -/

theorem nonneg_nonneg (x : Rat) : 0 ≤ nonneg x := by
  unfold nonneg
  split
  · exact le_refl _
  · exact not_lt.mp ‹_›

@[simp] theorem freqRound_nonneg (x : Rat) : 0 ≤ freqRound c x := nonneg_nonneg _

@[simp] theorem mtof_nonneg (note : BitVec 7) : 0 ≤ mtof c note := nonneg_nonneg _

@[simp] theorem keyFreq_nonneg (octave : Nat) (key : Fin 13) : 0 ≤ keyFreq c octave key := nonneg_nonneg _

@[simp] theorem pbMax_nonneg (k : Fin 13) : 0 ≤ pbMax c k := nonneg_nonneg _

@[simp] theorem pbMin_nonneg (k : Fin 13) : 0 ≤ pbMin c k := by
  unfold pbMin
  split
  · exact zero_le_one
  · exact nonneg_nonneg _

@[simp] theorem pbMin_le_one (k : Fin 13) : pbMin c k ≤ 1 := by
  unfold pbMin nonneg
  split
  · exact le_refl _
  · split
    · exact zero_le_one
    · exact not_lt.mp ‹_›

theorem keyTargetLevel_le : keyTargetLevel c ≤ 255 := by
  have := c.keyTargetLevel.isLt
  unfold keyTargetLevel
  omega

/-! ## Tick counts -/

theorem ticks_mono {a b : Nat} (h : a ≤ b) : ticks c a ≤ ticks c b :=
  Nat.div_le_div_right (Nat.mul_le_mul_right _ h)

theorem lt_two_pow_cntBits {n : Nat} (h : n ≤ maxTicks c) : n < 2 ^ cntBits c :=
  lt_of_le_of_lt h <| lt_of_lt_of_le Nat.lt_log2_self <| by
    unfold cntBits
    exact Nat.pow_le_pow_right (by decide) (Nat.le_add_right _ _)

theorem ticks_attack_le {ms : Nat} (h : ms ≤ c.attackLo + c.attackSpan) : ticks c ms ≤ maxTicks c :=
  le_trans (ticks_mono c h) (by simp [maxTicks])

theorem ticks_release_le {ms : Nat} (h : ms ≤ c.releaseLo + c.releaseSpan) : ticks c ms ≤ maxTicks c :=
  le_trans (ticks_mono c h) (by simp [maxTicks])

theorem ticks_decay_le : ticks c decayMs ≤ maxTicks c := by simp [maxTicks]

theorem ticks_sustain_le : ticks c (sustainMs c) ≤ maxTicks c := by simp [maxTicks]

theorem ticks_porta_le {ms : Nat} (h : ms ≤ 1000) : ticks c ms ≤ maxTicks c :=
  le_trans (ticks_mono c h) (by simp [maxTicks, portaTimeMaxMs])

/-! ## The mapper -/

theorem outLo_le_outHi (i : Fin 8) : outLo c i ≤ outHi c i := by
  fin_cases i <;> simp [outLo, outHi]

/-- The default map's result over the default input domain. -/
theorem defaultMap_eq (i : Fin 8) (x : BitVec 10) :
    defaultMap c i x = outLo c i + (x.toNat : Int) * (outHi c i - outLo c i) / 1023 := by
  have hx := x.isLt
  have : clamp (zext x) 0 1023 = x.toNat := by
    unfold clamp zext
    omega
  simp [defaultMap, inLo, inHi, this]

/-- The default map stays in the declared output range (46_scheduler R320). -/
theorem defaultMap_range (i : Fin 8) (x : BitVec 10) :
    outLo c i ≤ defaultMap c i x ∧ defaultMap c i x ≤ outHi c i := by
  have hd : 0 ≤ outHi c i - outLo c i := Int.sub_nonneg_of_le (outLo_le_outHi c i)
  have hx : (x.toNat : Int) ≤ 1023 := by
    have := x.isLt
    omega
  rw [defaultMap_eq]
  constructor
  · have : 0 ≤ (x.toNat : Int) * (outHi c i - outLo c i) / 1023 :=
      Int.ediv_nonneg (Int.mul_nonneg (Int.natCast_nonneg _) hd) (by decide)
    omega
  · have : (x.toNat : Int) * (outHi c i - outLo c i) / 1023 ≤ outHi c i - outLo c i := by
      apply Int.ediv_le_of_le_mul (by decide)
      rw [Int.mul_comm]
      exact Int.mul_le_mul_of_nonneg_left hx hd
    omega

theorem clamp_range {x lo hi : Int} (h : lo ≤ hi) : lo ≤ clamp x lo hi ∧ clamp x lo hi ≤ hi := by
  unfold clamp
  omega

/-- The mapper stays in the declared output range, whichever map is used (00_scope R8, 46_scheduler R320). -/
theorem mapParam_range (i : Fin 8) (x : BitVec 10) : outLo c i ≤ mapParam c i x ∧ mapParam c i x ≤ outHi c i := by
  unfold mapParam
  split
  · exact clamp_range (outLo_le_outHi c i)
  · exact defaultMap_range c i x

/-- The mapper is the default map where the model supplies no map of its own. -/
theorem mapParam_of_default {i : Fin 8} (h : c.mapOwn i = none) (x : BitVec 10) :
    mapParam c i x = defaultMap c i x := by
  simp [mapParam, h]

theorem outLo_nonneg (i : Fin 8) (h : i ≠ 6) : 0 ≤ outLo c i := by
  fin_cases i <;> simp_all [outLo]

end Sys2Proof.Machine
end

