-- ==== Sys2Proof/Laws/Ops.lean ====
section
/-! SUPPORT. One lemma per shared operation: everything it writes, and what it leaves alone. -/

namespace Sys2Proof.Machine

variable (c : Config)

/-! ## Envelopes (43_envelope) -/

/-- A ramp stays between its ends (43_envelope R236). -/
theorem rampLevel_between {start target k len : Nat} (hk : k ≤ len) :
    min start target ≤ rampLevel start target k len ∧ rampLevel start target k len ≤ max start target := by
  unfold rampLevel truncDiv
  rcases Nat.le_total start target with h | h
  · obtain ⟨d, rfl⟩ := Nat.exists_eq_add_of_le h
    have e : (((start + d : Nat) : Int) - start) * k = ((d * k : Nat) : Int) := by push_cast; ring
    have hq : d * k / len ≤ d := Nat.div_le_of_le_mul (by rw [Nat.mul_comm len d]; exact Nat.mul_le_mul_left d hk)
    rw [e, ← Int.ofNat_tdiv]
    generalize d * k / len = q at *
    omega
  · obtain ⟨d, rfl⟩ := Nat.exists_eq_add_of_le h
    have e : ((target : Int) - ((target + d : Nat) : Int)) * k = -((d * k : Nat) : Int) := by push_cast; ring
    have hq : d * k / len ≤ d := Nat.div_le_of_le_mul (by rw [Nat.mul_comm len d]; exact Nat.mul_le_mul_left d hk)
    rw [e, Int.neg_tdiv, ← Int.ofNat_tdiv]
    generalize d * k / len = q at *
    omega

/-- A trigger enters Attack from the level the envelope has: `ENV_ATTACK_FROM_ZERO` is false (43_envelope R231). -/
theorem envTrigger_eq (v : VoiceNo) (b : Block) :
    envTrigger c v b = b.setEnv v (enter c b (b.voice v).env .attack) := rfl

/-- What `ENV_TICK` can do to an envelope (43_envelope R235). -/
theorem envAdvance_cases (b : Block) (e : Env) :
    (e.stage = .idle ∧ envAdvance c b e = e) ∨
    (e.stage ≠ .idle ∧ e.len ≤ e.k + 1 ∧
      envAdvance c b e = enter c b { e with k := e.k + 1, level := e.target } e.stage.next) ∨
    (e.stage ≠ .idle ∧ e.k + 1 < e.len ∧
      envAdvance c b e = { e with k := e.k + 1, level := rampLevel e.start e.target (e.k + 1) e.len }) := by
  unfold envAdvance
  split
  · exact .inl ⟨‹_›, rfl⟩
  · split
    · exact .inr (.inl ⟨‹_›, ‹_›, rfl⟩)
    · exact .inr (.inr ⟨‹_›, by omega, rfl⟩)

/-- Of the block, an envelope reads only the two durations (43_envelope R241 (f)). -/
theorem envAdvance_congr {b d : Block} (ha : b.attackMs = d.attackMs) (hr : b.releaseMs = d.releaseMs) (e : Env) :
    envAdvance c b e = envAdvance c d e := by
  have h : ∀ e s, enter c b e s = enter c d e s := fun e s => by
    cases s <;> simp only [enter, stageLen, ha, hr]
  simp only [envAdvance, h]

/-- Ticks of one voice advance its envelope and write nothing else (43_envelope R235). -/
theorem envTick_iterate (v : VoiceNo) (n : Nat) (b : Block) :
    (envTick c v)^[n] b = b.setEnv v ((envAdvance c b)^[n] (b.voice v).env) := by
  induction n generalizing b with
  | zero => exact (Block.setVoice_voice b v).symm
  | succ n ih =>
    rw [Function.iterate_succ_apply, Function.iterate_succ_apply, ih]
    have h : envAdvance c (envTick c v b) = envAdvance c b := by
      funext e
      exact envAdvance_congr c (by simp [envTick]) (by simp [envTick]) e
    rw [h]
    simp [envTick, Block.setEnv]

/-! ## Pitch (42_pitch_bend_portamento) -/

/-- The ratio of a 14-bit bend lies between its two ends (42_pitch_bend_portamento R202). -/
theorem bendRatio_nonneg {bend : Int} (h : -8192 ≤ bend) (k : Fin 13) : 0 ≤ bendRatio c bend k := by
  unfold bendRatio
  split
  · exact zero_le_one
  · split
    · have hb : (0 : Rat) ≤ bend := by exact_mod_cast Int.le_of_lt ‹_›
      have := pbMax_nonneg c k
      positivity
    · have hb : (-8192 : Rat) ≤ bend := by exact_mod_cast h
      have hn : (bend : Rat) ≤ 0 := by exact_mod_cast not_lt.mp ‹_›
      have h0 := pbMin_nonneg c k
      have h1 := pbMin_le_one c k
      nlinarith

theorem neg_8192_le_sext (v : BitVec 14) : -8192 ≤ sext v := by
  have := v.le_toInt
  simpa [sext] using this

/-! ## The allocator (41_voice_allocator) -/

/-- What an allocation can do: assign the voice `chooseVoice` names, or nothing (41_voice_allocator R171). -/
theorem allocate_cases (src : Source) (b : Block) :
    (∃ v, chooseVoice src b = some v ∧ allocate c src b = assign c v src b) ∨
    (chooseVoice src b = none ∧ allocate c src b = b) := by
  unfold allocate
  cases h : chooseVoice src b with
  | some v => exact .inl ⟨v, rfl, rfl⟩
  | none => exact .inr ⟨rfl, rfl⟩

/-- What releasing a voice can do (41_voice_allocator R178). -/
theorem releaseIf_cases (v : VoiceNo) (id : BitVec 8) (b : Block) :
    ((b.voice v).noteId = id ∧ releaseIf c v id b =
      { b.setVoice v { b.voice v with noteId := noNote, env := enter c b (b.voice v).env .release } with
        mostRecentVoice := v.other }) ∨
    ((b.voice v).noteId ≠ id ∧ releaseIf c v id b = b) := by
  unfold releaseIf
  split
  · refine .inl ⟨‹_›, ?_⟩
    cases v <;> rfl
  · exact .inr ⟨‹_›, rfl⟩

/-- An assignment with portamento off, register by register (41_voice_allocator R176). -/
theorem assign_of_porta_off {b : Block} (h : b.portaOn = false) (v : VoiceNo) (src : Source) :
    assign c v src b =
      { b.setVoice v { b.voice v with
          noteId := src.noteId, baseFreq := src.freq c b.octave,
          oscFreq := freqRound c (src.freq c b.octave * b.ratio),
          env := enter c b { (b.voice v).env with attackLevel := src.level c, decayLevel := src.level c } .attack }
        with mostRecentVoice := v } := by
  cases v <;> simp [assign, assignFreq, assignLevels, envTrigger_eq, applyBendOnNote, h, Block.setEnv,
    Block.setOscFreq, Block.setVoice, Block.voice, enter, stageTarget, stageLen]

/-- An assignment with portamento on: the glide starts and the oscillator is not written (41_voice_allocator R176). -/
theorem assign_of_porta_on {b : Block} (h : b.portaOn = true) (v : VoiceNo) (src : Source) :
    assign c v src b =
      { b.setVoice v { b.voice v with
          noteId := src.noteId, baseFreq := src.freq c b.octave,
          env := enter c b { (b.voice v).env with attackLevel := src.level c, decayLevel := src.level c } .attack }
        with mostRecentVoice := v, glideFrom := b.glideOut, glideTo := src.freq c b.octave, glideK := 0,
             glideLen := ticks c b.portaMs } := by
  cases v <;> simp [assign, assignFreq, assignLevels, envTrigger_eq, glideStart, h, Block.setEnv, Block.setVoice,
    Block.voice, enter, stageTarget, stageLen]

/-! ## The audio side: no control-side operation touches a phase or a filter state (20_memory R85) -/

/-- Two blocks agree on the audio-side registers. -/
def SameAudio (b b' : Block) : Prop :=
  ∀ v, (b'.voice v).oscPhase = (b.voice v).oscPhase ∧ (b'.voice v).lpfState = (b.voice v).lpfState

theorem SameAudio.rfl' (b : Block) : SameAudio b b := fun _ => ⟨rfl, rfl⟩

theorem SameAudio.trans {a b d : Block} (h : SameAudio a b) (h' : SameAudio b d) : SameAudio a d :=
  fun v => ⟨(h' v).1.trans (h v).1, (h' v).2.trans (h v).2⟩

theorem sameAudio_setVoice (b : Block) (v : VoiceNo) (x : Voice) (hp : x.oscPhase = (b.voice v).oscPhase)
    (hl : x.lpfState = (b.voice v).lpfState) : SameAudio b (b.setVoice v x) := by
  intro w
  rw [Block.voice_setVoice]
  split
  · subst w; exact ⟨hp, hl⟩
  · exact ⟨rfl, rfl⟩

/-- The allocator never touches a key's registers. -/
theorem assign_key (v : VoiceNo) (src : Source) (b : Block) (k : Fin 13) : (assign c v src b).key k = b.key k := by
  cases h : b.portaOn
  · rw [assign_of_porta_off c h]
    exact Block.key_setVoice ..
  · rw [assign_of_porta_on c h]
    exact Block.key_setVoice ..

theorem allocate_key (src : Source) (b : Block) (k : Fin 13) : (allocate c src b).key k = b.key k := by
  obtain ⟨v, _, h⟩ | ⟨_, h⟩ := allocate_cases c src b <;> rw [h]
  exact assign_key ..

theorem releaseIf_key (v : VoiceNo) (id : BitVec 8) (b : Block) (k : Fin 13) :
    (releaseIf c v id b).key k = b.key k := by
  obtain ⟨_, h⟩ | ⟨_, h⟩ := releaseIf_cases c v id b <;> rw [h]
  exact Block.key_setVoice ..

theorem noteOffId_key (id : BitVec 8) (b : Block) (k : Fin 13) : (noteOffId c id b).key k = b.key k := by
  rw [noteOffId, releaseIf_key, releaseIf_key]

theorem keyEdge_key (k j : Fin 13) (edge : Option Edge) (b : Block) : (keyEdge c k edge b).key j = b.key j := by
  unfold keyEdge
  split
  · exact allocate_key ..
  · exact noteOffId_key ..
  · rfl

/-- A scan of key `k` scans that key's registers and no other key's (40_key_scanner R140, R149 (e)). -/
theorem keyScan_key (k j : Fin 13) (sample : Bool) (b : Block) :
    (keyScan c k sample b).key j = if j = k then (b.key k).scan sample else b.key j := by
  unfold keyScan
  rw [keyEdge_key]
  split
  · subst j; exact Block.key_setKey_same ..
  · exact Block.key_setKey_ne _ _ ‹_›

/-! ## The event poll -/

@[simp] theorem polled_nil : polled c [] = [] := List.take_nil

@[simp] theorem dispatchAll_nil (b : Block) : dispatchAll c [] b = b := rfl

/-- A poll pops words from the head and dispatches them in their order (46_scheduler R316). -/
theorem pollEvents_eq (n : Nat) (q : List Event) (b : Block) :
    pollEvents c n q b = (q.drop n, dispatchAll c (q.take n) b) := by
  induction n generalizing q b with
  | zero => rfl
  | succ n ih =>
    cases q with
    | nil => rfl
    | cons e q => exact ih q (dispatch c e b)

theorem eventPoll_eq (q : List Event) (b : Block) :
    eventPoll c q b = (q.drop (pollBudget (midiPerTick c) q), dispatchAll c (polled c q) b) :=
  pollEvents_eq ..

/-- With `MIDI_PER_TICK = 1` a poll dispatches the head of the queue, if there is one. -/
theorem eventPoll_one (h : midiPerTick c = .count 1) (q : List Event) (b : Block) :
    eventPoll c q b = (q.tail, dispatchAll c q.head?.toList b) := by
  rw [eventPoll_eq, polled, h]
  cases q <;> rfl

/-- What every dispatch keeps, a poll keeps. -/
theorem dispatchAll_induction {P : Block → Prop} (q : List Event) {b : Block} (h : P b)
    (step : ∀ e ∈ q, ∀ d, P d → P (dispatch c e d)) : P (dispatchAll c q b) := by
  induction q generalizing b with
  | nil => exact h
  | cons e q ih =>
    exact ih (step e List.mem_cons_self b h) fun e' he' => step e' (List.mem_cons_of_mem _ he')

end Sys2Proof.Machine
end

