-- ==== Sys2Proof/Laws/Frames.lean ====
section
/-! SUPPORT. The frames of the control tick's operations: the registers that only the poll, the LFO and the
controllers write, the keys, and the audio side. -/

namespace Sys2Proof.Machine

variable (c : Config)

/-! ## Controls: what the allocator, the key scanner, the envelopes and the glide never write -/

/-- Two blocks agree on every register that only the parameter poll, the LFO update, a controller or a bend
writes, and on the committed copy. -/
structure SameControls (b b' : Block) : Prop where
  idx : b'.idx = b.idx
  waveSel : b'.waveSel = b.waveSel
  volume : b'.volume = b.volume
  baseCutoff : b'.baseCutoff = b.baseCutoff
  octave : b'.octave = b.octave
  attackMs : b'.attackMs = b.attackMs
  releaseMs : b'.releaseMs = b.releaseMs
  lfoWave : b'.lfoWave = b.lfoWave
  lfoSpeed : b'.lfoSpeed = b.lfoSpeed
  lfoDepth : b'.lfoDepth = b.lfoDepth
  lfoPhase : b'.lfoPhase = b.lfoPhase
  cutoff : b'.cutoff = b.cutoff
  bend : b'.bend = b.bend
  pbRange : b'.pbRange = b.pbRange
  ratio : b'.ratio = b.ratio
  portaOn : b'.portaOn = b.portaOn
  portaMs : b'.portaMs = b.portaMs
  committed : b'.committed = b.committed

theorem SameControls.refl (b : Block) : SameControls b b := by constructor <;> rfl

theorem SameControls.trans {a b d : Block} (h : SameControls a b) (h' : SameControls b d) : SameControls a d :=
  ⟨h'.idx.trans h.idx, h'.waveSel.trans h.waveSel, h'.volume.trans h.volume, h'.baseCutoff.trans h.baseCutoff,
    h'.octave.trans h.octave, h'.attackMs.trans h.attackMs, h'.releaseMs.trans h.releaseMs,
    h'.lfoWave.trans h.lfoWave, h'.lfoSpeed.trans h.lfoSpeed, h'.lfoDepth.trans h.lfoDepth,
    h'.lfoPhase.trans h.lfoPhase, h'.cutoff.trans h.cutoff, h'.bend.trans h.bend, h'.pbRange.trans h.pbRange,
    h'.ratio.trans h.ratio, h'.portaOn.trans h.portaOn, h'.portaMs.trans h.portaMs,
    h'.committed.trans h.committed⟩

theorem sameControls_setVoice (b : Block) (v : VoiceNo) (x : Voice) : SameControls b (b.setVoice v x) := by
  constructor <;> cases v <;> rfl

theorem sameControls_setKey (b : Block) (k : Fin 13) (x : Key) : SameControls b (b.setKey k x) := by
  constructor <;> rfl

theorem sameControls_assign (v : VoiceNo) (src : Source) (b : Block) : SameControls b (assign c v src b) := by
  cases h : b.portaOn
  · rw [assign_of_porta_off c h]
    constructor <;> cases v <;> rfl
  · rw [assign_of_porta_on c h]
    constructor <;> cases v <;> rfl

theorem sameControls_allocate (src : Source) (b : Block) : SameControls b (allocate c src b) := by
  obtain ⟨v, _, h⟩ | ⟨_, h⟩ := allocate_cases c src b <;> rw [h]
  · exact sameControls_assign ..
  · exact .refl b

theorem sameControls_releaseIf (v : VoiceNo) (id : BitVec 8) (b : Block) :
    SameControls b (releaseIf c v id b) := by
  obtain ⟨_, h⟩ | ⟨_, h⟩ := releaseIf_cases c v id b <;> rw [h]
  · constructor <;> cases v <;> rfl
  · exact .refl b

theorem sameControls_noteOffId (id : BitVec 8) (b : Block) : SameControls b (noteOffId c id b) :=
  (sameControls_releaseIf c .one id b).trans (sameControls_releaseIf c .two id _)

theorem sameControls_keyScan (k : Fin 13) (sample : Bool) (b : Block) : SameControls b (keyScan c k sample b) := by
  refine (sameControls_setKey b k ((b.key k).scan sample)).trans ?_
  unfold keyScan keyEdge
  split
  · exact sameControls_allocate ..
  · exact sameControls_noteOffId ..
  · exact .refl _

theorem sameControls_scanKeys (p : Ports) (b : Block) : SameControls b (scanKeys c p b) := by
  unfold scanKeys
  generalize allKeys = l
  induction l generalizing b with
  | nil => exact .refl b
  | cons k l ih => exact (sameControls_keyScan c k _ b).trans (ih _)

theorem sameControls_envTick (v : VoiceNo) (b : Block) : SameControls b (envTick c v b) :=
  sameControls_setVoice b v _

theorem sameControls_glideStep (b : Block) : SameControls b (glideStep c b) := by
  unfold glideStep
  split
  · constructor <;> rfl
  · exact .refl b

/-- Steps 4 to 6 of the control tick write no control register. -/
theorem sameControls_steps (p : Ports) (b : Block) :
    SameControls b (glideStep c (envTick c .two (envTick c .one (scanKeys c p b)))) :=
  (sameControls_scanKeys c p b).trans <| (sameControls_envTick c .one _).trans <|
    (sameControls_envTick c .two _).trans (sameControls_glideStep c _)

/-! ## Keys: a control tick scans each of them once (46_scheduler R311, 40_key_scanner R145) -/

/-- Scanning a list of distinct keys scans each key of the list once. -/
theorem foldl_keyScan_key (p : Ports) (l : List (Fin 13)) (hl : l.Nodup) (b : Block) (j : Fin 13) :
    (l.foldl (fun b k => keyScan c k (p.keyAt k) b) b).key j =
      if j ∈ l then (b.key j).scan (p.keyAt j) else b.key j := by
  induction l generalizing b with
  | nil => rfl
  | cons k l ih =>
    obtain ⟨hk, hl⟩ := List.nodup_cons.mp hl
    rw [List.foldl_cons, ih hl, keyScan_key]
    by_cases hj : j = k
    · subst hj
      simp [hk]
    · simp [hj]

theorem mem_allKeys (k : Fin 13) : k ∈ allKeys := by revert k; decide

theorem allKeys_nodup : allKeys.Nodup := by decide

theorem scanKeys_key (p : Ports) (b : Block) (j : Fin 13) :
    (scanKeys c p b).key j = (b.key j).scan (p.keyAt j) := by
  rw [scanKeys, foldl_keyScan_key c p _ allKeys_nodup, if_pos (mem_allKeys j)]

@[simp] theorem setParam_keys (i : Fin 8) (m : Int) (b : Block) : (setParam i m b).keys = b.keys := by
  unfold setParam
  split <;> rfl

theorem paramPoll_key (p : Ports) (b : Block) (k : Fin 13) : (paramPoll c p b).key k = b.key k := by
  simp [paramPoll, Block.key]

theorem dispatch_key (e : Event) (b : Block) (k : Fin 13) : (dispatch c e b).key k = b.key k := by
  cases e with
  | noteOff _ note _ => exact noteOffId_key ..
  | noteOn _ note vel =>
    show (dispatchNoteOn c note vel b).key k = _
    unfold dispatchNoteOn
    split
    · exact noteOffId_key ..
    · exact allocate_key ..
  | bend _ value => simp [dispatch, dispatchBend, retune, Block.setOscFreq, Block.key]
  | _ => rfl

theorem dispatchAll_key (q : List Event) (b : Block) (k : Fin 13) : (dispatchAll c q b).key k = b.key k :=
  dispatchAll_induction c (P := fun d => d.key k = b.key k) q rfl fun e _ d h => (dispatch_key c e d k).trans h

theorem glideStep_key (b : Block) (k : Fin 13) : (glideStep c b).key k = b.key k := by
  unfold glideStep
  split
  · simp [glideTick, Block.setOscFreq, Block.key]
  · rfl

theorem envTick_key (v : VoiceNo) (b : Block) (k : Fin 13) : (envTick c v b).key k = b.key k :=
  Block.key_setVoice ..

/-- A whole control tick scans every key once, from the samples on the ports (40_key_scanner R140). -/
theorem afterEvents_key (p : Ports) (b : Block) (k : Fin 13) :
    (afterEvents c p b).key k = (b.key k).scan (p.keyAt k) := by
  rw [afterEvents, Block.commit_key, glideStep_key, envTick_key, envTick_key, scanKeys_key]

theorem beforeEvents_key (p : Ports) (b : Block) (k : Fin 13) : (beforeEvents c p b).key k = b.key k :=
  paramPoll_key c p b k

/-! ## The audio side: control-side operations neither read nor write it (20_memory R85) -/

variable (one two : Phase × FilterState)

theorem setVoice_withAudio_one (b : Block) (x : Voice) :
    (b.withAudio one two).setVoice .one { x with oscPhase := one.1, lpfState := one.2 } =
      (b.setVoice .one x).withAudio one two := rfl

theorem setVoice_withAudio_two (b : Block) (x : Voice) :
    (b.withAudio one two).setVoice .two { x with oscPhase := two.1, lpfState := two.2 } =
      (b.setVoice .two x).withAudio one two := rfl

theorem paramPoll_withAudio (p : Ports) (b : Block) :
    paramPoll c p (b.withAudio one two) = (paramPoll c p b).withAudio one two := by
  simp only [paramPoll, setParam, Block.withAudio]
  split <;> rfl

theorem lfoCutoffUpdate_withAudio (b : Block) :
    lfoCutoffUpdate c (b.withAudio one two) = (lfoCutoffUpdate c b).withAudio one two := rfl

theorem assign_withAudio (v : VoiceNo) (src : Source) (b : Block) :
    assign c v src (b.withAudio one two) = (assign c v src b).withAudio one two := by
  cases h : b.portaOn
  · rw [assign_of_porta_off c h, assign_of_porta_off c (b := b.withAudio one two) h]
    cases v <;> rfl
  · rw [assign_of_porta_on c h, assign_of_porta_on c (b := b.withAudio one two) h]
    cases v <;> rfl

theorem allocate_withAudio (src : Source) (b : Block) :
    allocate c src (b.withAudio one two) = (allocate c src b).withAudio one two := by
  have h : chooseVoice src (b.withAudio one two) = chooseVoice src b := rfl
  unfold allocate
  rw [h]
  cases chooseVoice src b
  · rfl
  · exact assign_withAudio ..

theorem releaseIf_withAudio (v : VoiceNo) (id : BitVec 8) (b : Block) :
    releaseIf c v id (b.withAudio one two) = (releaseIf c v id b).withAudio one two := by
  have h : ((b.withAudio one two).voice v).noteId = (b.voice v).noteId := by cases v <;> rfl
  unfold releaseIf
  rw [h]
  split
  · cases v <;> rfl
  · rfl

theorem noteOffId_withAudio (id : BitVec 8) (b : Block) :
    noteOffId c id (b.withAudio one two) = (noteOffId c id b).withAudio one two := by
  rw [noteOffId, releaseIf_withAudio, releaseIf_withAudio, noteOffId]

theorem dispatch_withAudio (e : Event) (b : Block) :
    dispatch c e (b.withAudio one two) = (dispatch c e b).withAudio one two := by
  cases e with
  | noteOff _ note _ => exact noteOffId_withAudio ..
  | noteOn _ note vel =>
    show dispatchNoteOn c note vel _ = (dispatchNoteOn c note vel b).withAudio one two
    unfold dispatchNoteOn
    split
    · exact noteOffId_withAudio ..
    · exact allocate_withAudio ..
  | _ => rfl

theorem dispatchAll_withAudio (q : List Event) (b : Block) :
    dispatchAll c q (b.withAudio one two) = (dispatchAll c q b).withAudio one two := by
  induction q generalizing b with
  | nil => rfl
  | cons e q ih =>
    show dispatchAll c q (dispatch c e (b.withAudio one two)) = _
    rw [dispatch_withAudio]
    exact ih _

theorem keyScan_withAudio (k : Fin 13) (sample : Bool) (b : Block) :
    keyScan c k sample (b.withAudio one two) = (keyScan c k sample b).withAudio one two := by
  have h : (b.withAudio one two).setKey k (((b.withAudio one two).key k).scan sample) =
    (b.setKey k ((b.key k).scan sample)).withAudio one two := rfl
  have hk : (b.withAudio one two).key k = b.key k := rfl
  rw [keyScan, h, hk, keyScan]
  unfold keyEdge
  split
  · exact allocate_withAudio ..
  · exact noteOffId_withAudio ..
  · rfl

theorem scanKeys_withAudio (p : Ports) (b : Block) :
    scanKeys c p (b.withAudio one two) = (scanKeys c p b).withAudio one two := by
  unfold scanKeys
  generalize allKeys = l
  induction l generalizing b with
  | nil => rfl
  | cons k l ih => rw [List.foldl_cons, keyScan_withAudio, ih, List.foldl_cons]

theorem envTick_withAudio (v : VoiceNo) (b : Block) :
    envTick c v (b.withAudio one two) = (envTick c v b).withAudio one two := by
  cases v <;> rfl

theorem glideStep_withAudio (b : Block) :
    glideStep c (b.withAudio one two) = (glideStep c b).withAudio one two := by
  have h : (b.withAudio one two).portaOn = b.portaOn := rfl
  unfold glideStep
  rw [h]
  split <;> rfl

theorem commit_withAudio (b : Block) : (b.withAudio one two).commit = b.commit.withAudio one two := rfl

theorem afterEvents_withAudio (p : Ports) (b : Block) :
    afterEvents c p (b.withAudio one two) = (afterEvents c p b).withAudio one two := by
  rw [afterEvents, scanKeys_withAudio, envTick_withAudio, envTick_withAudio, glideStep_withAudio, commit_withAudio,
    afterEvents]

theorem beforeEvents_withAudio (p : Ports) (b : Block) :
    beforeEvents c p (b.withAudio one two) = (beforeEvents c p b).withAudio one two := by
  rw [beforeEvents, paramPoll_withAudio, lfoCutoffUpdate_withAudio, beforeEvents]

end Sys2Proof.Machine
end

