-- ==== Sys2Proof/Laws/Words.lean ====
section
/-! SUPPORT. The formats bit by bit: what a mask leaves of a format's word, what its fields are, and when an
arbitrary word is one of its words. -/

namespace Sys2Proof

/-! ## What the row masks leave of a word -/

theorem mask_message (op ch : BitVec 4) (mid low : BitVec 7) :
    formatNC op ch mid low &&& 0xF08080FF#32 = op ++ 0#28 := by
  apply BitVec.eq_of_getLsbD_eq
  intro i hi
  simp only [formatNC, BitVec.getLsbD_and, BitVec.getLsbD_append, BitVec.getLsbD_zero]
  interval_cases i <;> simp

theorem mask_controller (op ch : BitVec 4) (mid low : BitVec 7) :
    formatNC op ch mid low &&& 0xF0FF80FF#32 = op ++ 0#5 ++ mid ++ 0#16 := by
  apply BitVec.eq_of_getLsbD_eq
  intro i hi
  simp only [formatNC, BitVec.getLsbD_and, BitVec.getLsbD_append, BitVec.getLsbD_zero]
  interval_cases i <;> simp

theorem mask_bend (ch : BitVec 4) (value : BitVec 14) : formatB ch value &&& 0xF0FFC000#32 = 0xE0000000#32 := by
  apply BitVec.eq_of_getLsbD_eq
  intro i hi
  simp only [formatB, BitVec.getLsbD_and, BitVec.getLsbD_append, BitVec.getLsbD_zero]
  interval_cases i <;> simp

/-! ## The fields of a format's word -/

@[simp] theorem opField_message (op ch : BitVec 4) (mid low : BitVec 7) :
    opField (formatNC op ch mid low) = op := by
  apply BitVec.eq_of_getLsbD_eq
  intro i hi
  simp only [opField, formatNC, BitVec.getLsbD_extractLsb', BitVec.getLsbD_append]
  interval_cases i <;> simp

@[simp] theorem chField_message (op ch : BitVec 4) (mid low : BitVec 7) :
    chField (formatNC op ch mid low) = ch := by
  apply BitVec.eq_of_getLsbD_eq
  intro i hi
  simp only [chField, formatNC, BitVec.getLsbD_extractLsb', BitVec.getLsbD_append]
  interval_cases i <;> simp

@[simp] theorem noteField_message (op ch : BitVec 4) (mid low : BitVec 7) :
    noteField (formatNC op ch mid low) = mid := by
  apply BitVec.eq_of_getLsbD_eq
  intro i hi
  simp only [noteField, formatNC, BitVec.getLsbD_extractLsb', BitVec.getLsbD_append]
  interval_cases i <;> simp

@[simp] theorem valField_message (op ch : BitVec 4) (mid low : BitVec 7) :
    valField (formatNC op ch mid low) = low := by
  apply BitVec.eq_of_getLsbD_eq
  intro i hi
  simp only [valField, formatNC, BitVec.getLsbD_extractLsb', BitVec.getLsbD_append]
  interval_cases i <;> simp

@[simp] theorem opField_bend (ch : BitVec 4) (value : BitVec 14) : opField (formatB ch value) = 0xE := by
  apply BitVec.eq_of_getLsbD_eq
  intro i hi
  simp only [opField, formatB, BitVec.getLsbD_extractLsb', BitVec.getLsbD_append]
  interval_cases i <;> simp

@[simp] theorem chField_bend (ch : BitVec 4) (value : BitVec 14) : chField (formatB ch value) = ch := by
  apply BitVec.eq_of_getLsbD_eq
  intro i hi
  simp only [chField, formatB, BitVec.getLsbD_extractLsb', BitVec.getLsbD_append]
  interval_cases i <;> simp

@[simp] theorem bendField_bend (ch : BitVec 4) (value : BitVec 14) : bendField (formatB ch value) = value := by
  apply BitVec.eq_of_getLsbD_eq
  intro i hi
  simp only [bendField, formatB, BitVec.getLsbD_extractLsb', BitVec.getLsbD_append]
  interval_cases i <;> simp

/-! ## Which rows a word selects -/

theorem opField_and (x y : Word) : opField (x &&& y) = opField x &&& opField y := by
  apply BitVec.eq_of_getLsbD_eq
  intro i hi
  simp only [opField, BitVec.getLsbD_extractLsb', BitVec.getLsbD_and]
  interval_cases i <;> simp

/-- Every row tests the whole of `OP`: a word that selects it has its `OP`. -/
theorem opField_of_selects {r : OpRow} {w : Word} (hm : opField r.mask = 0xF) (h : r.selects w = true) :
    opField w = opField r.pattern := by
  have h' : w &&& r.mask = r.pattern := by simpa [OpRow.selects] using h
  rw [← h', opField_and, hm]
  exact (BitVec.and_allOnes (x := opField w)).symm

theorem not_selects_of_op {r : OpRow} {w : Word} (hm : opField r.mask = 0xF) (h : opField w ≠ opField r.pattern) :
    r.selects w = false := by
  cases hs : r.selects w
  · rfl
  · exact absurd (opField_of_selects hm hs) h

theorem selects_message (p op ch : BitVec 4) (mid low : BitVec 7) :
    (OpRow.mk (p ++ 0#28) 0xF08080FF#32).selects (formatNC op ch mid low) = (op == p) := by
  simp only [OpRow.selects, mask_message]
  rw [Bool.eq_iff_iff, beq_iff_eq, beq_iff_eq]
  constructor
  · intro h
    apply BitVec.eq_of_getLsbD_eq
    intro i hi
    have := congrArg (fun w : Word => w.getLsbD (28 + i)) h
    simp only [BitVec.getLsbD_append] at this
    interval_cases i <;> simpa using this
  · rintro rfl; rfl

theorem selects_controller (p op ch : BitVec 4) (q mid low : BitVec 7) :
    (OpRow.mk (p ++ 0#5 ++ q ++ 0#16) 0xF0FF80FF#32).selects (formatNC op ch mid low) = (op == p && mid == q) := by
  simp only [OpRow.selects, mask_controller]
  rw [Bool.eq_iff_iff]
  simp only [beq_iff_eq, Bool.and_eq_true]
  constructor
  · intro h
    refine ⟨?_, ?_⟩ <;> apply BitVec.eq_of_getLsbD_eq <;> intro i hi
    · have := congrArg (fun w : Word => w.getLsbD (28 + i)) h
      simp only [BitVec.getLsbD_append] at this
      interval_cases i <;> simpa using this
    · have := congrArg (fun w : Word => w.getLsbD (16 + i)) h
      simp only [BitVec.getLsbD_append] at this
      interval_cases i <;> simpa using this
  · rintro ⟨rfl, rfl⟩; rfl

/-! ## An arbitrary word against a format's mask -/

/-- A word has the fixed bits of formats N and C exactly when it is the format's word of its own fields. -/
theorem message_of_mask {w : Word} {op : BitVec 4} (h : w &&& 0xF08080FF#32 = op ++ 0#28) :
    formatNC op (chField w) (noteField w) (valField w) = w := by
  apply BitVec.eq_of_getLsbD_eq
  intro i hi
  have hb := congrArg (fun x : Word => x.getLsbD i) h
  simp only [BitVec.getLsbD_and, BitVec.getLsbD_append, BitVec.getLsbD_zero] at hb
  simp only [formatNC, chField, noteField, valField, BitVec.getLsbD_append, BitVec.getLsbD_extractLsb',
    BitVec.getLsbD_zero]
  interval_cases i <;> simp_all

/-- A word has the fixed bits of format B exactly when it is the format's word of its own fields. -/
theorem bend_of_mask {w : Word} (h : w &&& 0xF0FFC000#32 = 0xE0000000#32) :
    formatB (chField w) (bendField w) = w := by
  apply BitVec.eq_of_getLsbD_eq
  intro i hi
  have hb := congrArg (fun x : Word => x.getLsbD i) h
  simp only [BitVec.getLsbD_and] at hb
  simp only [formatB, chField, bendField, BitVec.getLsbD_append, BitVec.getLsbD_extractLsb', BitVec.getLsbD_zero]
  interval_cases i <;> simp_all

/-- The mask of a controller row also tests `CTL`. -/
theorem controller_of_mask {w : Word} {op : BitVec 4} {ctl : BitVec 7}
    (h : w &&& 0xF0FF80FF#32 = op ++ 0#5 ++ ctl ++ 0#16) : formatNC op (chField w) ctl (valField w) = w := by
  apply BitVec.eq_of_getLsbD_eq
  intro i hi
  have hb := congrArg (fun x : Word => x.getLsbD i) h
  simp only [BitVec.getLsbD_and, BitVec.getLsbD_append, BitVec.getLsbD_zero] at hb
  simp only [formatNC, chField, valField, BitVec.getLsbD_append, BitVec.getLsbD_extractLsb', BitVec.getLsbD_zero]
  interval_cases i <;> simp_all

end Sys2Proof
end

