-- ==== Sys2Proof/Laws/PerInstr.lean ====
section
/-! SUPPORT. Per command: the word of every command selects the command's own row of the opcode map
(30_encoding R109). -/

namespace Sys2Proof.Laws

/-- The row of the opcode map that a command belongs to (30_encoding R109). -/
def rowOf : Instr → OpRow
  | .ctick => rowCtick
  | .atick => rowAtick
  | .reset => rowReset
  | .noteOff .. => rowNoteOff
  | .noteOn .. => rowNoteOn
  | .ccMod .. => rowCcMod
  | .ccPorta .. => rowCcPorta
  | .ccVol .. => rowCcVol
  | .ccPbRange .. => rowCcPbRange
  | .ccLearn .. => rowCcLearn
  | .ccOmni .. => rowCcOmni
  | .ccOther .. => rowCcOther
  | .bend .. => rowBend

/-- The command's word selects its row: `OP`, the controller number and every bit the format fixes are right. -/
def Selects.Statement (i : Instr) : Prop := (rowOf i).selects (encode i) = true

theorem Selects.ctick : Selects.Statement .ctick :=
  rfl

theorem Selects.atick : Selects.Statement .atick :=
  rfl

theorem Selects.reset : Selects.Statement .reset :=
  rfl

theorem Selects.noteOff (ch : BitVec 4) (note : BitVec 7) (vel : BitVec 7) : Selects.Statement (.noteOff ch note vel) :=
  selects_message 0x8 0x8 ch note vel

theorem Selects.noteOn (ch : BitVec 4) (note : BitVec 7) (vel : BitVec 7) : Selects.Statement (.noteOn ch note vel) :=
  selects_message 0x9 0x9 ch note vel

theorem Selects.ccMod (ch : BitVec 4) (val : BitVec 7) : Selects.Statement (.ccMod ch val) :=
  selects_controller 0xB 0xB ch 1 1 val

theorem Selects.ccPorta (ch : BitVec 4) (val : BitVec 7) : Selects.Statement (.ccPorta ch val) :=
  selects_controller 0xB 0xB ch 5 5 val

theorem Selects.ccVol (ch : BitVec 4) (val : BitVec 7) : Selects.Statement (.ccVol ch val) :=
  selects_controller 0xB 0xB ch 7 7 val

theorem Selects.ccPbRange (ch : BitVec 4) (val : BitVec 7) : Selects.Statement (.ccPbRange ch val) :=
  selects_controller 0xB 0xB ch 20 20 val

theorem Selects.ccLearn (ch : BitVec 4) (val : BitVec 7) : Selects.Statement (.ccLearn ch val) :=
  selects_controller 0xB 0xB ch 124 124 val

theorem Selects.ccOmni (ch : BitVec 4) (val : BitVec 7) : Selects.Statement (.ccOmni ch val) :=
  selects_controller 0xB 0xB ch 125 125 val

theorem Selects.ccOther (ch : BitVec 4) (ctl : BitVec 7) (val : BitVec 7) : Selects.Statement (.ccOther ch ctl val) :=
  selects_message 0xB 0xB ch ctl val

theorem Selects.bend (ch : BitVec 4) (value : BitVec 14) : Selects.Statement (.bend ch value) :=
  beq_iff_eq.mpr (mask_bend ch value)

end Sys2Proof.Laws
end

