-- ==== Sys2Proof/Laws/Safety.lean ====
section
/-! SUPPORT. Every block-level operation keeps the register domains (`Block.Ok`). -/

namespace Sys2Proof.Machine

variable {c : Config}

/-! ## Transport along updates -/

/-- The domain depends on these registers only. -/
theorem Block.ParamsOk.copy {b b' : Block} (h : b.ParamsOk c)
    (h0 : b'.baseCutoff = b.baseCutoff := by rfl) (h1 : b'.waveSel = b.waveSel := by rfl)
    (h2 : b'.octave = b.octave := by rfl) (h3 : b'.attackMs = b.attackMs := by rfl)
    (h4 : b'.releaseMs = b.releaseMs := by rfl) (h5 : b'.lfoWave = b.lfoWave := by rfl)
    (h6 : b'.lfoSpeed = b.lfoSpeed := by rfl) (h7 : b'.lfoDepth = b.lfoDepth := by rfl)
    (h8 : b'.cutoff = b.cutoff := by rfl) : b'.ParamsOk c :=
  ⟨h0 ▸ h.baseCutoff, h1 ▸ h.waveSel, h2 ▸ h.octave, h3 ▸ h.attackMs, h4 ▸ h.releaseMs, h5 ▸ h.lfoWave,
    h6 ▸ h.lfoSpeed, h7 ▸ h.lfoDepth, h8 ▸ h.cutoff⟩

/-- The domain depends on these registers only. -/
theorem Block.PitchOk.copy {b b' : Block} (h : b.PitchOk c)
    (h0 : b'.ratio = b.ratio := by rfl) (h1 : b'.portaMs = b.portaMs := by rfl)
    (h2 : b'.glideFrom = b.glideFrom := by rfl) (h3 : b'.glideTo = b.glideTo := by rfl)
    (h4 : b'.glideOut = b.glideOut := by rfl) (h5 : b'.glideK = b.glideK := by rfl)
    (h6 : b'.glideLen = b.glideLen := by rfl) : b'.PitchOk c :=
  ⟨h0 ▸ h.ratio, h1 ▸ h.portaMs, h2 ▸ h.glideFrom, h3 ▸ h.glideTo, h4 ▸ h.glideOut, h5 ▸ h6 ▸ h.glideK,
    h6 ▸ h.glideLen⟩

theorem Block.ParamsOk.setVoice {b : Block} (h : b.ParamsOk c) (v : VoiceNo) (x : Voice) :
    (b.setVoice v x).ParamsOk c := by
  cases v <;> exact h.copy

theorem Block.PitchOk.setVoice {b : Block} (h : b.PitchOk c) (v : VoiceNo) (x : Voice) :
    (b.setVoice v x).PitchOk c := by
  cases v <;> exact h.copy

theorem Block.Ok.setVoice {b : Block} (h : b.Ok c) (v : VoiceNo) {x : Voice} (hx : x.Ok c) :
    (b.setVoice v x).Ok c where
  voices w := by
    rw [Block.voice_setVoice]
    split
    · exact hx
    · exact h.voices w
  keys k := by
    rw [Block.key_setVoice]
    exact h.keys k
  params := h.params.setVoice v x
  pitch := h.pitch.setVoice v x

theorem Block.Ok.setEnv {b : Block} (h : b.Ok c) (v : VoiceNo) {e : Env} (he : e.Ok c) : (b.setEnv v e).Ok c :=
  h.setVoice v ⟨(h.voices v).noteId, (h.voices v).baseFreq, (h.voices v).oscFreq, he⟩

theorem Block.Ok.setOscFreq {b : Block} (h : b.Ok c) (v : VoiceNo) {f : Freq} (hf : 0 ≤ f) :
    (b.setOscFreq v f).Ok c :=
  h.setVoice v ⟨(h.voices v).noteId, (h.voices v).baseFreq, hf, (h.voices v).env⟩

theorem Block.Ok.setKey {b : Block} (h : b.Ok c) (k : Fin 13) {x : Key} (hx : x.Ok) : (b.setKey k x).Ok c where
  voices w := by
    rw [Block.voice_setKey]
    exact h.voices w
  keys j := by
    by_cases hj : j = k
    · subst hj
      rw [Block.key_setKey_same]
      exact hx
    · rw [Block.key_setKey_ne _ _ hj]
      exact h.keys j
  params := h.params.copy
  pitch := h.pitch.copy

/-- A block whose voices and keys are another's, with its own parameters and pitch registers in their domains. -/
theorem Block.Ok.of_regs {b b' : Block} (h : b.Ok c) (h1 : b'.voice1 = b.voice1) (h2 : b'.voice2 = b.voice2)
    (hk : b'.keys = b.keys) (hp : b'.ParamsOk c) (hq : b'.PitchOk c) : b'.Ok c where
  voices
    | .one => by
      have := h.voices .one
      simpa [Block.voice, h1] using this
    | .two => by
      have := h.voices .two
      simpa [Block.voice, h2] using this
  keys k := by
    have := h.keys k
    simpa [Block.key, hk] using this
  params := hp
  pitch := hq

theorem Block.Ok.setMostRecent {b : Block} (h : b.Ok c) (v : VoiceNo) :
    Block.Ok c { b with mostRecentVoice := v } :=
  h.of_regs rfl rfl rfl
    h.params.copy
    h.pitch.copy

theorem Block.Ok.commit {b : Block} (h : b.Ok c) : b.commit.Ok c :=
  h.of_regs rfl rfl rfl
    h.params.copy
    h.pitch.copy

/-! ## Envelopes -/

theorem stageLen_lt {b : Block} (h : b.ParamsOk c) (s : Stage) : stageLen c b s < 2 ^ cntBits c := by
  apply lt_two_pow_cntBits
  cases s with
  | idle => exact Nat.zero_le _
  | attack => exact ticks_attack_le c (by have := h.attackMs.2; simp [outHi] at this; omega)
  | decay => exact ticks_decay_le c
  | sustain => exact ticks_sustain_le c
  | release => exact ticks_release_le c (by have := h.releaseMs.2; simp [outHi] at this; omega)

/-- Entering a stage keeps the domain; Idle may be entered at level 0 only. -/
theorem enter_ok {b : Block} (hb : b.ParamsOk c) {e : Env} (hl : e.level ≤ 255) (ha : e.attackLevel ≤ 255)
    (hd : e.decayLevel ≤ 255) {s : Stage} (hs : s = .idle → e.level = 0) : (enter c b e s).Ok c where
  level := hl
  attackLevel := ha
  decayLevel := hd
  start := hl
  target := by cases s <;> simp [enter, stageTarget, ha, hd]
  elapsed := .inl rfl
  length := stageLen_lt hb s
  idleSilent := hs
  releaseEnds := by
    intro h
    cases s <;> simp_all [enter, stageTarget]

theorem envAdvance_ok {b : Block} (hb : b.ParamsOk c) {e : Env} (h : e.Ok c) : (envAdvance c b e).Ok c := by
  obtain ⟨_, he⟩ | ⟨hi, hk, he⟩ | ⟨hi, hk, he⟩ := envAdvance_cases c b e <;> rw [he]
  · exact h
  · refine enter_ok (e := { e with k := e.k + 1, level := e.target }) hb h.target h.attackLevel h.decayLevel
      fun hs => ?_
    apply h.releaseEnds
    revert hs hi
    cases e.stage <;> simp [Stage.next]
  · refine { h with level := ?_, elapsed := .inr hk, idleSilent := fun hs => absurd hs hi }
    have := (rampLevel_between (start := e.start) (target := e.target) (Nat.le_of_lt hk)).2
    exact le_trans this (max_le h.start h.target)

theorem envTick_ok {b : Block} (h : b.Ok c) (v : VoiceNo) : (envTick c v b).Ok c :=
  h.setEnv v (envAdvance_ok h.params (h.voices v).env)

/-! ## Pitch -/

theorem dispatchBend_ok {b : Block} (h : b.Ok c) (value : BitVec 14) : (dispatchBend c value b).Ok c := by
  have hq : Block.Ok c { b with bend := value, ratio := bendRatio c (sext value) b.pbRange } :=
    h.of_regs rfl rfl rfl
      h.params.copy
      ⟨bendRatio_nonneg c (neg_8192_le_sext value) _, h.pitch.portaMs, h.pitch.glideFrom, h.pitch.glideTo,
        h.pitch.glideOut, h.pitch.glideK, h.pitch.glideLen⟩
  exact (hq.setOscFreq .one (freqRound_nonneg ..)).setOscFreq .two (freqRound_nonneg ..)

theorem portaMs_le (val : BitVec 7) : zext val * portaTimeMaxMs / 127 ≤ 1000 := by
  have := val.isLt
  simp only [zext, portaTimeMaxMs]
  omega

theorem dispatchCcPorta_ok {b : Block} (h : b.Ok c) (val : BitVec 7) : (dispatchCcPorta val b).Ok c :=
  h.of_regs rfl rfl rfl
    h.params.copy
    ⟨h.pitch.ratio, portaMs_le val, h.pitch.glideFrom, h.pitch.glideTo, h.pitch.glideOut, h.pitch.glideK,
      h.pitch.glideLen⟩

theorem dispatchCcPbRange_ok {b : Block} (h : b.Ok c) (val : BitVec 7) : (dispatchCcPbRange val b).Ok c :=
  h.of_regs rfl rfl rfl
    h.params.copy
    h.pitch.copy

theorem glideStart_ok {b : Block} (h : b.Ok c) {f : Freq} (hf : 0 ≤ f) : (glideStart c f b).Ok c :=
  h.of_regs rfl rfl rfl
    h.params.copy
    ⟨h.pitch.ratio, h.pitch.portaMs, h.pitch.glideOut, hf, h.pitch.glideOut, Nat.zero_le _,
      lt_two_pow_cntBits c (ticks_porta_le c h.pitch.portaMs)⟩

theorem glideTick_ok {b : Block} (h : b.Ok c) : (glideTick c b).Ok c := by
  have hf : 0 ≤ glideValue c b (glideNextK b) := by
    unfold glideValue
    split
    · exact h.pitch.glideTo
    · exact freqRound_nonneg ..
  have hk : glideNextK b ≤ b.glideLen := by
    have := h.pitch.glideK
    unfold glideNextK
    split <;> omega
  refine Block.Ok.setOscFreq
    (b := { b with glideK := glideNextK b, glideOut := glideValue c b (glideNextK b) })
    (h.of_regs rfl rfl rfl ?_ ?_) .two hf
  · exact h.params.copy
  · exact ⟨h.pitch.ratio, h.pitch.portaMs, h.pitch.glideFrom, h.pitch.glideTo, hf, hk, h.pitch.glideLen⟩

theorem glideStep_ok {b : Block} (h : b.Ok c) : (glideStep c b).Ok c := by
  unfold glideStep
  split
  · exact glideTick_ok h
  · exact h

/-! ## The allocator and the key scanner -/

theorem legalNote_midiId (note : BitVec 7) : legalNote (midiId note) := by
  have := note.isLt
  left
  simp only [midiId, BitVec.toNat_setWidth]
  omega

theorem legalNote_keyId (k : Fin 13) : legalNote (keyId k) := by
  have := k.isLt
  left
  simp only [keyId, BitVec.toNat_ofNat]
  omega

theorem Source.legal (src : Source) : legalNote src.noteId := by
  cases src
  · exact legalNote_midiId _
  · exact legalNote_keyId _

theorem Source.freq_nonneg (src : Source) (octave : Nat) : 0 ≤ src.freq c octave := by
  cases src <;> simp [Source.freq]

theorem Source.level_le (src : Source) : src.level c ≤ 255 := by
  cases src
  · exact min_le_right _ _
  · exact keyTargetLevel_le c

/-- The voice an assignment leaves is in its domain. -/
theorem assigned_ok {b : Block} (h : b.Ok c) (v : VoiceNo) (src : Source) {f : Freq} (hf : 0 ≤ f) :
    Voice.Ok c { b.voice v with
      noteId := src.noteId, baseFreq := src.freq c b.octave, oscFreq := f,
      env := enter c b { (b.voice v).env with attackLevel := src.level c, decayLevel := src.level c } .attack } where
  noteId := src.legal
  baseFreq := src.freq_nonneg _
  oscFreq := hf
  env := enter_ok (s := .attack)
    (e := { (b.voice v).env with attackLevel := src.level c, decayLevel := src.level c })
    h.params (h.voices v).env.level src.level_le src.level_le (by simp)

theorem assign_ok {b : Block} (h : b.Ok c) (v : VoiceNo) (src : Source) : (assign c v src b).Ok c := by
  cases hp : b.portaOn
  · rw [assign_of_porta_off c hp]
    exact (h.setVoice v (assigned_ok h v src (freqRound_nonneg ..))).setMostRecent v
  · have hv := h.setVoice v (assigned_ok h v src (h.voices v).oscFreq)
    have hg := glideStart_ok hv (src.freq_nonneg (c := c) b.octave)
    rw [assign_of_porta_on c hp]
    have := hg.setMostRecent v
    cases v <;> exact this

theorem allocate_ok {b : Block} (h : b.Ok c) (src : Source) : (allocate c src b).Ok c := by
  obtain ⟨v, _, e⟩ | ⟨_, e⟩ := allocate_cases c src b <;> rw [e]
  · exact assign_ok h v src
  · exact h

theorem releaseIf_ok {b : Block} (h : b.Ok c) (v : VoiceNo) (id : BitVec 8) : (releaseIf c v id b).Ok c := by
  obtain ⟨_, e⟩ | ⟨_, e⟩ := releaseIf_cases c v id b <;> rw [e]
  · have he := (h.voices v).env
    have hx : Voice.Ok c { b.voice v with noteId := noNote, env := enter c b (b.voice v).env .release } :=
      ⟨.inr rfl, (h.voices v).baseFreq, (h.voices v).oscFreq,
        enter_ok (s := .release) h.params he.level he.attackLevel he.decayLevel (by simp)⟩
    exact (h.setVoice v hx).setMostRecent _
  · exact h

theorem noteOffId_ok {b : Block} (h : b.Ok c) (id : BitVec 8) : (noteOffId c id b).Ok c :=
  releaseIf_ok (releaseIf_ok h _ _) _ _

/-- A scan leaves a key available exactly when it is not latched (40_key_scanner R147). -/
theorem Key.scan_ok {x : Key} (h : x.Ok) (sample : Bool) : (x.scan sample).Ok := by
  obtain ⟨a, b, k, z, v⟩ := x
  revert h
  cases a <;> cases b <;> cases k <;> cases z <;> cases v <;> cases sample <;> simp [Key.Ok, Key.scan, Key.nextAvail,
    Key.edge, Key.nextZ, latch]

theorem keyEdge_ok {b : Block} (h : b.Ok c) (k : Fin 13) (edge : Option Edge) : (keyEdge c k edge b).Ok c := by
  unfold keyEdge
  split
  · exact allocate_ok h _
  · exact noteOffId_ok h _
  · exact h

theorem keyScan_ok {b : Block} (h : b.Ok c) (k : Fin 13) (sample : Bool) : (keyScan c k sample b).Ok c :=
  keyEdge_ok (h.setKey k (Key.scan_ok (h.keys k) sample)) k _

theorem scanKeys_ok {b : Block} (h : b.Ok c) (p : Ports) : (scanKeys c p b).Ok c := by
  unfold scanKeys
  generalize allKeys = l
  induction l generalizing b with
  | nil => exact h
  | cons k l ih => exact ih (keyScan_ok h k _)

/-! ## The LFO and the controllers -/

theorem lfoUnsigned_le (raw : BitVec 8) : lfoUnsigned raw ≤ 255 := by
  have h1 := raw.le_toInt
  simp only [lfoUnsigned, sext]
  simp at h1
  omega

theorem modCutoff_le (base gain : Nat) : modCutoff base gain ≤ base := Nat.sub_le _ _

theorem Block.ParamsOk.baseCutoff_le {b : Block} (h : b.ParamsOk c) : b.baseCutoff ≤ cutoffMax c := by
  have := h.baseCutoff.2
  simp [outHi] at this
  unfold cutoffMax
  omega

theorem lfoCutoffUpdate_ok {b : Block} (h : b.Ok c) : (lfoCutoffUpdate c b).Ok c :=
  h.of_regs rfl rfl rfl
    ⟨h.params.baseCutoff, h.params.waveSel, h.params.octave, h.params.attackMs, h.params.releaseMs,
      h.params.lfoWave, h.params.lfoSpeed, h.params.lfoDepth, le_trans (modCutoff_le _ _) h.params.baseCutoff_le⟩
    h.pitch.copy

theorem dispatchCcMod_ok {b : Block} (h : b.Ok c) (val : BitVec 7) : (dispatchCcMod val b).Ok c := by
  have hv := val.isLt
  refine h.of_regs rfl rfl rfl
    ⟨h.params.baseCutoff, h.params.waveSel, h.params.octave, h.params.attackMs, h.params.releaseMs,
      h.params.lfoWave, h.params.lfoSpeed, ?_, h.params.cutoff⟩
    h.pitch.copy
  simp only [dispatchCcMod, zext]
  omega

theorem dispatchCcVol_ok {b : Block} (h : b.Ok c) (val : BitVec 7) : (dispatchCcVol val b).Ok c :=
  h.of_regs rfl rfl rfl
    h.params.copy
    h.pitch.copy

/-! ## The parameter poll and the dispatch -/

/-- Writing a parameter a value of its declared range keeps the ranges (46_scheduler R313, R320). -/
theorem setParam_ok {b : Block} (hp : b.ParamsOk c) (i : Fin 8) {m : Int} (hr : outLo c i ≤ m ∧ m ≤ outHi c i) :
    (setParam i m b).ParamsOk c := by
  fin_cases i <;> simp only [outLo, outHi] at hr
  · exact ⟨by simp [setParam, outLo, outHi]; omega, hp.waveSel, hp.octave, hp.attackMs, hp.releaseMs, hp.lfoWave,
      hp.lfoSpeed, hp.lfoDepth, hp.cutoff⟩
  · exact ⟨hp.baseCutoff, by simp [setParam]; omega, hp.octave, hp.attackMs, hp.releaseMs, hp.lfoWave,
      hp.lfoSpeed, hp.lfoDepth, hp.cutoff⟩
  · exact ⟨hp.baseCutoff, hp.waveSel, by simp [setParam]; omega, hp.attackMs, hp.releaseMs, hp.lfoWave,
      hp.lfoSpeed, hp.lfoDepth, hp.cutoff⟩
  · exact ⟨hp.baseCutoff, hp.waveSel, hp.octave, by simp [setParam, outLo, outHi]; omega, hp.releaseMs, hp.lfoWave,
      hp.lfoSpeed, hp.lfoDepth, hp.cutoff⟩
  · exact ⟨hp.baseCutoff, hp.waveSel, hp.octave, hp.attackMs, by simp [setParam, outLo, outHi]; omega, hp.lfoWave,
      hp.lfoSpeed, hp.lfoDepth, hp.cutoff⟩
  · exact ⟨hp.baseCutoff, hp.waveSel, hp.octave, hp.attackMs, hp.releaseMs, by simp [setParam]; omega,
      hp.lfoSpeed, hp.lfoDepth, hp.cutoff⟩
  · exact ⟨hp.baseCutoff, hp.waveSel, hp.octave, hp.attackMs, hp.releaseMs, hp.lfoWave,
      by simp [setParam, outLo, outHi]; omega, hp.lfoDepth, hp.cutoff⟩
  · exact ⟨hp.baseCutoff, hp.waveSel, hp.octave, hp.attackMs, hp.releaseMs, hp.lfoWave, hp.lfoSpeed,
      by simp [setParam]; omega, hp.cutoff⟩

theorem paramPoll_ok {b : Block} (h : b.Ok c) (p : Ports) : (paramPoll c p b).Ok c := by
  have hp := setParam_ok h.params b.idx (mapParam_range c b.idx (p.adcAt b.idx))
  have hq := h.pitch
  unfold paramPoll
  generalize mapParam c b.idx (p.adcAt b.idx) = m at *
  refine h.of_regs ?_ ?_ ?_
    hp.copy ?_
  · simp only [setParam]; split <;> rfl
  · simp only [setParam]; split <;> rfl
  · simp only [setParam]; split <;> rfl
  · simp only [setParam]
    split <;> exact hq.copy

theorem dispatch_ok {b : Block} (h : b.Ok c) (e : Event) : (dispatch c e b).Ok c := by
  cases e with
  | noteOff _ note _ => exact noteOffId_ok h _
  | noteOn _ note vel =>
    show (dispatchNoteOn c note vel b).Ok c
    unfold dispatchNoteOn
    split
    · exact noteOffId_ok h _
    · exact allocate_ok h _
  | ccMod _ val => exact dispatchCcMod_ok h val
  | ccPorta _ val => exact dispatchCcPorta_ok h val
  | ccVol _ val => exact dispatchCcVol_ok h val
  | ccPbRange _ val => exact dispatchCcPbRange_ok h val
  | ccLearn _ _ => exact h
  | ccOmni _ _ => exact h
  | ccOther _ _ _ => exact h
  | bend _ value => exact dispatchBend_ok h value

theorem dispatchAll_ok {b : Block} (h : b.Ok c) (q : List Event) : (dispatchAll c q b).Ok c :=
  dispatchAll_induction c q h fun e _ _ hd => dispatch_ok hd e

theorem afterEvents_ok {b : Block} (h : b.Ok c) (p : Ports) : (afterEvents c p b).Ok c :=
  (glideStep_ok (envTick_ok (envTick_ok (scanKeys_ok h p) .one) .two)).commit

theorem renderBlock_ok {b : Block} (h : b.Ok c) : (renderBlock c b).Ok c where
  voices
    | .one => ⟨(h.voices .one).noteId, (h.voices .one).baseFreq, (h.voices .one).oscFreq, (h.voices .one).env⟩
    | .two => ⟨(h.voices .two).noteId, (h.voices .two).baseFreq, (h.voices .two).oscFreq, (h.voices .two).env⟩
  keys k := h.keys k
  params := h.params.copy
  pitch := h.pitch.copy

/-! ## The reset values -/

theorem Env.reset_ok : Env.reset.Ok c :=
  ⟨by decide, by decide, by decide, by decide, by decide, .inl rfl, Nat.two_pow_pos _, fun _ => rfl, fun _ => rfl⟩

theorem Voice.reset_ok : (Voice.reset c).Ok c :=
  ⟨.inr rfl, freqRound_nonneg .., freqRound_nonneg .., Env.reset_ok⟩

/-- The reset block is in its domain, whatever the parameters (10_state section 12). -/
theorem Block.reset_ok : (Block.reset c).Ok c where
  voices v := by cases v <;> exact Voice.reset_ok
  keys k := by simp [Block.key, Block.reset, Key.Ok, Key.reset]
  params := by constructor <;> (simp [Block.reset, paramReset, outLo, outHi, cutoffMax]; try omega)
  pitch := by constructor <;> simp [Block.reset, glideResetFreq]

end Sys2Proof.Machine
end

