-- ==== Sys2Proof/Laws/Tick.lean ====
section
/-! SUPPORT. The control tick as one operation, and runs. -/

namespace Sys2Proof.Machine

variable (c : Config)

/-- One more step at the front of a run. -/
theorem run_succ {M : Host.Core} {s t : M.State} (h : M.step s = .next t) (n : Nat) : M.run (n + 1) s = M.run n t := by
  simp [Host.Core.run, h]

theorem core_run_succ {s t : State} (h : step s = .next t) (n : Nat) : core.run (n + 1) s = core.run n t :=
  run_succ (M := core) h n

/-- CTICK in one equation (46_scheduler R311). -/
theorem exec_ctick (s : State) :
    exec .ctick s = .next { s with
      blk := afterEvents Config.block s.ports
        (dispatchAll Config.block (polled Config.block s.evq) (beforeEvents Config.block s.ports s.blk))
      evq := s.evq.drop (pollBudget (midiPerTick Config.block) s.evq) } := by
  show Host.Outcome.next _ = _
  simp only [controlTick, eventPoll_eq]

/-- The state after a control tick. -/
theorem ctick_next {s t : State} (h : exec .ctick s = .next t) :
    t = { s with
      blk := afterEvents Config.block s.ports
        (dispatchAll Config.block (polled Config.block s.evq) (beforeEvents Config.block s.ports s.blk))
      evq := s.evq.drop (pollBudget (midiPerTick Config.block) s.evq) } := by
  rw [exec_ctick] at h
  exact (Host.Outcome.next.inj h).symm

/-- Steps 4 to 7 of the control tick commit a block with the same control registers. -/
theorem afterEvents_controls (p : Ports) (b : Block) : ∃ d, SameControls b d ∧ afterEvents c p b = d.commit :=
  ⟨_, sameControls_steps c p b, rfl⟩

/-- The commit leaves the two copies of the shared registers equal (20_memory R83). -/
theorem afterEvents_committed (p : Ports) (b : Block) : (afterEvents c p b).committed = (afterEvents c p b).shared := by
  rw [afterEvents, Block.commit_committed, Block.commit_shared]

theorem sameControls_noteOn (note vel : BitVec 7) (b : Block) : SameControls b (dispatchNoteOn c note vel b) := by
  unfold dispatchNoteOn
  split
  · exact sameControls_noteOffId ..
  · exact sameControls_allocate ..

/-- No event moves the round robin. -/
theorem dispatch_idx (e : Event) (b : Block) : (dispatch c e b).idx = b.idx := by
  cases e with
  | noteOff _ note _ => exact (sameControls_noteOffId c _ b).idx
  | noteOn _ note vel => exact (sameControls_noteOn c note vel b).idx
  | _ => rfl

@[simp] theorem afterEvents_idx (p : Ports) (b : Block) : (afterEvents c p b).idx = b.idx := by
  rw [afterEvents, Block.commit_idx]
  exact (sameControls_steps c p b).idx

@[simp] theorem dispatchAll_idx (q : List Event) (b : Block) : (dispatchAll c q b).idx = b.idx :=
  dispatchAll_induction c (P := fun d => d.idx = b.idx) q rfl fun e _ d h => (dispatch_idx c e d).trans h

@[simp] theorem beforeEvents_idx (p : Ports) (b : Block) : (beforeEvents c p b).idx = nextIdx b.idx := rfl

end Sys2Proof.Machine
end

