-- ==== Sys2Proof/Tests/Slice0.lean ====
section
/-! SUPPORT. Tests: ill-formed terms, words written out from the spec's encodings, one step against the vectors of
spec/95_test_vectors.md under its test configuration TC, and a witness for the hypotheses of every statement. -/

namespace Sys2Proof.Tests

open Sys2Proof.Machine

/-! ## WellFormed: the one check, on each controller that has its own row (30_encoding R110, R111) -/

theorem test_wf_refuses_other_1 : (Instr.ccOther 0 1 64).wf = false := by decide
theorem test_wf_refuses_other_5 : (Instr.ccOther 0 5 64).wf = false := by decide
theorem test_wf_refuses_other_7 : (Instr.ccOther 0 7 64).wf = false := by decide
theorem test_wf_refuses_other_20 : (Instr.ccOther 0 20 64).wf = false := by decide
theorem test_wf_refuses_other_124 : (Instr.ccOther 0 124 64).wf = false := by decide
theorem test_wf_refuses_other_125 : (Instr.ccOther 0 125 64).wf = false := by decide
theorem test_wf_accepts_other : (Instr.ccOther 0 0 0).wf = true ∧ (Instr.ccOther 15 127 127).wf = true := by decide

/-! ## Decode: the words of 95_test_vectors Part 2 -/

theorem test_decode_ctick : decode 0x00000001 = .ok .ctick := by decide
theorem test_decode_atick : decode 0x00000002 = .ok .atick := by decide
theorem test_decode_reset : decode 0x00000003 = .ok .reset := by decide
theorem test_decode_noteOff : decode 0x803C0000 = .ok (.noteOff 0 60 0) := by decide
theorem test_decode_noteOn : decode 0x92027F00 = .ok (.noteOn 2 2 127) := by decide
theorem test_decode_noteOn_top : decode 0x9F7F7F00 = .ok (.noteOn 15 127 127) := by decide
theorem test_decode_ccMod : decode 0xB0017F00 = .ok (.ccMod 0 127) := by decide
theorem test_decode_ccPorta : decode 0xB0054000 = .ok (.ccPorta 0 64) := by decide
theorem test_decode_ccVol : decode 0xB0077F00 = .ok (.ccVol 0 127) := by decide
theorem test_decode_ccPbRange : decode 0xB0140C00 = .ok (.ccPbRange 0 12) := by decide
theorem test_decode_ccLearn : decode 0xB07C0000 = .ok (.ccLearn 0 0) := by decide
theorem test_decode_ccOmni : decode 0xB07D7F00 = .ok (.ccOmni 0 127) := by decide
theorem test_decode_ccOther : decode 0xB0400000 = .ok (.ccOther 0 64 0) := by decide
theorem test_decode_ccOther_top : decode 0xB07F7F00 = .ok (.ccOther 0 127 127) := by decide
theorem test_decode_bend : decode 0xE0001FFF = .ok (.bend 0 8191) := by decide
theorem test_decode_bend_neg : decode 0xE0002000 = .ok (.bend 0 (-8192)) := by decide

/-- The four sorts of reserved word (30_encoding R112). -/
theorem test_decode_reserved :
    decode 0x00000000 = .error .strobe ∧ decode 0x00000101 = .error .strobe ∧
    decode 0x903C6401 = .error .message ∧ decode 0x90BC6400 = .error .message ∧
    decode 0xE0004000 = .error .bend ∧ decode 0xA0000000 = .error .op := by decide

theorem test_encode_noteOn : encode (.noteOn 0 60 100) = 0x903C6400 := by decide
theorem test_encode_bend : encode (.bend 0 (-8192)) = 0xE0002000 := by decide

/-- The assembler refuses an operand outside its field (30_encoding R114). -/
theorem test_asm_ranges : asmBend 0 8192 = none ∧ asmNoteOn 0 128 1 = none ∧ asmCC 16 0 0 = none ∧
    asmBend 3 (-8192) = some (.bend 3 (-8192)) := by decide

/-- Lines of programs P1 and P3, and pseudo-commands (30_encoding R116). -/
theorem test_asm_words : (AsmLine.noteOn 0 60 100).words = some [0x903C6400] ∧
    (AsmLine.portaOff 0).words = some [0xB0050000] ∧ (AsmLine.bend 0 (-8192)).words = some [0xE0002000] ∧
    (AsmLine.cc 0 64 0).words = some [0xB0400000] ∧ AsmLine.cycle8.words = some (List.replicate 8 0x00000001) := by
  decide

theorem test_table_word : decodeTableWord 32 0xB0054000 = some (.ccPorta 0 64) ∧ decodeTableWord 32 0 = none := by
  decide

/-- A word placed with `withFetchWord` is what the next step runs, right after reset. -/
theorem test_fetch_noteOn :
    step (State.reset.withFetchWord 32 0x903C6400) = .next { State.reset with evq := [.noteOn 0 60 100] } := rfl

theorem test_fetch_reserved : step (State.reset.withFetchWord 32 0) = .refused (.reservedEncoding .strobe) := rfl

/-! ## The test configuration TC (95_test_vectors section 0) -/

/-- TC's raw parameters. -/
def tc : Config :=
  { controlRatePred := 99, audioRateExtra := 0, audioPerControl := 1, midiPerTickPred := some 0, sustainPred := 999999, keyTargetLevel := 180
    mtofRaw := fun n => if n = 60 then 300 else if n = 64 then 400 else if n = 67 then 450 else if n = 72 then 600 else 0
    keyFreqRaw := fun _ k => 100 * (k.val + 1)
    pbMaxRaw := fun k => if k = 0 then 0 else 1 / 8
    pbMinRaw := fun k => if k = 0 then 0 else 1 / 8
    freqRoundRaw := fun x => x
    oscStep := fun _ ph f => (ph, if f = 0 then 0 else 100)
    oscPhaseReset := 0
    lfoStep := fun _ ph _ => (ph, 0)
    lfoFreqRaw := fun _ => 1
    lfoPhaseReset := 0, cntSlack := 0, filtPred := 7
    lpfStepRaw := fun st _ _ s => (st, s.toNat)
    lpfStateReset := 0, resonance := 0, outShift := 8, outPred := 15
    cutoffLo := 200, cutoffSpan := 0, cutoffSlack := 0, attackLo := 30, attackSpan := 0
    releaseLo := 20, releaseSpan := 0, speedLo := 0, speedSpan := 0, mapOwn := fun _ => none }

/-- TC with `MIDI_PER_TICK = ALL` and equal-width octave bands as its own `MAP[2]` (46_scheduler R316, R322). -/
def tcOwn : Config :=
  { tc with
    midiPerTickPred := none
    mapOwn := fun i => if i = 2 then some fun x => x.toNat / 256 else none }

/-- The same value on every analog channel, and the 13 keys. -/
def ports (adc : BitVec 10) (keys : BitVec 13) : Ports := ⟨Vector.replicate 8 adc, keys⟩

/-- The block after one control tick under TC. -/
def tick (p : Ports) (q : List Event) (b : Block) : Block := (controlTick tc p q b).2

/-- TC's reset block. -/
def b0 : Block := Block.reset tc

/-- A voice that holds `id` at frequency `f` in Decay at `level`. -/
def held (id : BitVec 8) (f : Freq) (level : Nat) : Voice :=
  { noteId := id, baseFreq := f, oscFreq := f, oscPhase := 0, lpfState := 0,
    env := { stage := .decay, level := level, attackLevel := level, decayLevel := level, start := level,
             target := level, k := 0, len := 10 } }

/-! ## One step against the vectors -/

/-- S2 and program P1, t1. -/
theorem test_noteOn_empty :
    let b := tick (ports 0 0) [.noteOn 0 60 100] b0
    b.voice1.noteId = 60 ∧ b.voice1.oscFreq = 300 ∧ b.voice1.env.stage = .attack ∧ b.voice1.env.k = 1 ∧
    b.voice1.env.len = 3 ∧ b.voice1.env.level = 66 ∧ b.mostRecentVoice = .one ∧ b.voice2.noteId = 129 := by
  decide +kernel

/-- S3: stealing voice 2. -/
theorem test_noteOn_steals :
    let b := dispatch tc (.noteOn 0 67 100) { b0 with voice1 := held 60 300 200, voice2 := held 64 400 200 }
    b.voice2.noteId = 67 ∧ b.voice2.oscFreq = 450 ∧ b.voice1.noteId = 60 ∧ b.mostRecentVoice = .two := by
  decide +kernel

/-- Program P1, t4: Release runs 2 ticks from 200, so it is at 100 after its first. -/
theorem test_noteOff :
    let b := tick (ports 0 0) [.noteOff 0 60 0] { b0 with voice1 := held 60 300 200 }
    b.voice1.noteId = 129 ∧ b.voice1.env.stage = .release ∧ b.voice1.env.level = 100 ∧ b.mostRecentVoice = .two := by
  decide +kernel

/-- A NOTEON of velocity 0 releases (41_voice_allocator R170). -/
theorem test_noteOn_zero :
    (dispatch tc (.noteOn 0 60 0) { b0 with voice1 := held 60 300 200 }).voice1.env.stage = .release := by
  decide +kernel

/-- S8: bend 8191 with range index 2. -/
theorem test_bend_up :
    (dispatch tc (.bend 0 8191) { b0 with voice1 := held 60 300 200 }).ratio = 73727 / 65536 := by decide +kernel

/-- Program P3, t10: 600 * 7/8. -/
theorem test_bend_down :
    (dispatch tc (.bend 0 (-8192)) { b0 with voice2 := held 72 600 200 }).voice2.oscFreq = 525 := by decide +kernel

/-- Program P3, t1: value 4 gives 31 ms, 3 ticks. -/
theorem test_ccPorta :
    let b := dispatch tc (.ccPorta 0 4) b0
    b.portaOn = true ∧ b.portaMs = 31 ∧ ticks tc b.portaMs = 3 := by decide +kernel

theorem test_ccPorta_off : (dispatch tc (.ccPorta 0 0) { b0 with portaOn := true }).portaOn = false := by decide +kernel

/-- Values above 12 are clamped (42_pitch_bend_portamento R204). -/
theorem test_ccPbRange : (dispatch tc (.ccPbRange 0 127) b0).pbRange = 12 := by decide +kernel

/-- The ends of the depth range (44_lfo_filter R266). -/
theorem test_ccMod : (dispatch tc (.ccMod 0 0) b0).lfoDepth = 1 ∧ (dispatch tc (.ccMod 0 127) b0).lfoDepth = 256 := by
  decide +kernel

/-- Program P4, t9: the cutoff of the tick is computed before CC.MOD is dispatched. -/
theorem test_ccMod_order :
    let b := tick (ports 1023 0) [.ccMod 0 0] { b0 with lfoDepth := 256 }
    b.cutoff = 101 ∧ b.lfoDepth = 1 := by decide +kernel

/-- Program P4, t10. -/
theorem test_ccVol : (tick (ports 1023 0) [.ccVol 0 64] b0).committed.volume = 64 := by decide +kernel

/-- T5 (46_scheduler R332 to R334). -/
theorem test_ccLearn : tick (ports 0 0) [.ccLearn 0 127] b0 = tick (ports 0 0) [] b0 := by decide +kernel
theorem test_ccOmni : tick (ports 0 0) [.ccOmni 0 0] b0 = tick (ports 0 0) [] b0 := by decide +kernel
theorem test_ccOther : tick (ports 0 0) [.ccOther 0 64 127] b0 = tick (ports 0 0) [] b0 := by decide +kernel

/-- T2: one event per tick, and with `ALL` the last of three wins in one tick (46_scheduler R316). -/
theorem test_ctick_per_tick :
    let q : List Event := [.ccVol 0 10, .ccVol 0 20, .ccVol 0 30]
    (controlTick tc (ports 0 0) q b0).1 = [.ccVol 0 20, .ccVol 0 30] ∧ (tick (ports 0 0) q b0).volume = 10 ∧
    (controlTick tcOwn (ports 0 0) q b0).1 = [] ∧ (controlTick tcOwn (ports 0 0) q b0).2.volume = 30 := by
  decide +kernel

/-- T1: the queued note takes voice 1, then the key that rises in the same tick takes voice 2. -/
theorem test_ctick_order :
    let b := tick (ports 0 1) [.noteOn 0 60 100] (b0.setKey 0 ⟨true, true, false, false, true⟩)
    b.voice1.noteId = 60 ∧ b.voice2.noteId = 0 ∧ (b.key 0).avail = false := by decide +kernel

/-- Program P3, t2: the glide's output is what voice 2 has. -/
theorem test_ctick_glide :
    let b := tick (ports 0 0) [.noteOn 0 60 100] { b0 with portaOn := true, portaMs := 31 }
    b.voice2.noteId = 60 ∧ b.committed.oscFreq2 = 100 ∧ b.glideLen = 3 ∧ b.glideK = 1 := by decide +kernel

/-- Program P1, the first audio tick: gain 32, sample 3200 >> 8. -/
theorem test_atick : mixOut tc (tick (ports 0 0) [.noteOn 0 60 100] b0) = 12 := by decide +kernel

/-- 45_audio_renderer R293: the shift is a floor. -/
theorem test_shift_floor : asr (-9900) 8 = -39 ∧ asr (-1) 8 = -1 ∧ asr 9900 8 = 38 := by decide

/-- RESET leaves the queue (Z2). -/
theorem test_reset_keeps_queue (e : Event) :
    exec .reset { State.reset with evq := [e] } = .next { State.reset with evq := [e] } := rfl

theorem test_reset_values : b0.cutoff = 200 ∧ b0.voice1.noteId = 129 ∧ b0.volume = 127 ∧ b0.pbRange = 2 := by
  decide +kernel

/-- 44_lfo_filter R268: base 200, depth 128. -/
theorem test_cutoff :
    modCutoff 200 (lfoGain 0 128) = 151 ∧ modCutoff 200 (lfoGain (-128) 128) = 101 ∧
    modCutoff 200 (lfoGain 127 128) = 200 := by decide

/-- The rows of 95_test_vectors 3.7 for waveform, octave and depth at their band edges. -/
theorem test_map :
    mapParam tc 1 340 = 1 ∧ mapParam tc 1 341 = 2 ∧ mapParam tc 1 1022 = 3 ∧ mapParam tc 1 1023 = 4 ∧
    mapParam tcOwn 2 255 = 0 ∧ mapParam tcOwn 2 768 = 3 ∧ mapParam tcOwn 1 341 = 2 ∧ mapParam tc 2 682 = 2 ∧ mapParam tc 7 512 = 128 ∧ mapParam tc 7 4 = 1 ∧ mapParam tc 7 5 = 2 := by decide

/-! ## Witnesses: for each statement with hypotheses, an input that meets them all, at the edges of its clauses -/

theorem witness_DecodeOfEncode :
    (Instr.ccOther 15 127 127).wf = true ∧ (Instr.bend 15 (-8192)).wf = true := by decide

theorem witness_EncodeOfDecode : decode 0xEF003FFF = .ok (.bend 15 (-1)) := by decide

theorem witness_ReservedWordsRefused :
    ∃ (s : State) (p : Presented) (rest : List Presented) (why : Reserved),
      s.cmd = p :: rest ∧ decode p.word = .error why :=
  ⟨State.reset.withFetchWord 32 4, ⟨4, Ports.reset⟩, [], .strobe, rfl, by decide⟩

theorem witness_OpcodeMapUnambiguous :
    rowCcMod ∈ exactRows ∧ rowCcMod.selects 0xB0017F00 = true ∧ rowCcOther.selects 0xB0017F00 = true := by decide

theorem witness_StepRunsDecodedCommand :
    ∃ (s : State) (p : Presented) (rest : List Presented) (i : Instr), s.cmd = p :: rest ∧ decode p.word = .ok i :=
  ⟨State.reset.withFetchWord 32 0x9F7F7F00, ⟨0x9F7F7F00, Ports.reset⟩, [], .noteOn 15 127 127, rfl, by decide⟩

theorem witness_IdleBlockHoldsItsState : State.reset.cmd = [] := rfl

theorem witness_EveryCommandIsAccepted : Instr.ctick ≠ .atick := by decide

theorem witness_EventWordsWaitInEvq :
    ({ State.reset with evq := [.noteOn 0 60 100, .bend 0 0] } : State).evq = .noteOn 0 60 100 :: [.bend 0 0] ∧
    ∃ (s : State) (p : Presented) (why : Reserved), s.cmd = p :: [] ∧ decode p.word = .error why :=
  ⟨rfl, State.reset.withFetchWord 32 0x903C6401, ⟨0x903C6401, Ports.reset⟩, .message, rfl, by decide⟩

theorem witness_EventPollFollowsMidiPerTick : midiPerTick tc = .count 1 ∧ midiPerTick tcOwn = .all := by decide

theorem witness_NthWordDispatchedByNthTick : midiPerTick tc = .count 1 := by decide

/-- Each of the eight indices occurs. -/
theorem witness_PollWritesSelectedParameter (i : Fin 8) : ({ b0 with idx := i } : Block).idx = i := rfl

theorem witness_RoundRobinOverControlTicks :
    ∃ (s : State) (ps : List Ports), ps.length = 8 ∧ s.cmd = ps.map (fun p => ⟨0x00000001, p⟩) :=
  ⟨{ State.reset with cmd := (List.replicate 8 Ports.reset).map fun p => ⟨0x00000001, p⟩ },
    List.replicate 8 Ports.reset, rfl, rfl⟩

/-- Eight control ticks, with eight events of which none is CC.MOD. -/
theorem witness_RoundRobinLoadsEveryParameter :
    ∃ (s : State) (ps : List Ports), ps.length = 8 ∧ s.cmd = ps.map (fun p => ⟨0x00000001, p⟩) ∧
      s.evq.length = 8 ∧ (∀ ch val, Event.ccMod ch val ∉
        s.evq.take (poppedBy (midiPerTick Config.block) 8 s.evq)) ∧ s.blk.idx = 0 ∧
      ps[7]? = some (ports 1023 0) ∧ (7 : Fin 8).val = (s.blk.idx.val + 7) % 8 := by
  refine ⟨{ State.reset with
      cmd := (List.replicate 8 (ports 1023 0)).map fun p => ⟨0x00000001, p⟩
      evq := List.replicate 8 (.noteOn 0 60 100) },
    List.replicate 8 (ports 1023 0), rfl, rfl, rfl, ?_, rfl, rfl, rfl⟩
  intro ch val h
  have := List.eq_of_mem_replicate (List.mem_of_mem_take h)
  cases this

/-- A range and a degenerate one; the default map and an own map. -/
theorem witness_MapperIsLinearInRange :
    outLo tc 7 < outHi tc 7 ∧ defaultMap tc 7 1023 = outHi tc 7 ∧ defaultMap tc 7 1022 ≠ outHi tc 7 ∧
    outLo tc 0 = outHi tc 0 ∧ tc.mapOwn 2 = none ∧
    ∃ f, tcOwn.mapOwn 2 = some f ∧ ∀ y, outLo tcOwn 2 ≤ f y ∧ f y ≤ outHi tcOwn 2 := by
  refine ⟨by decide, by decide, by decide, by decide, rfl, fun x => x.toNat / 256, rfl, fun y => ?_⟩
  have := y.isLt
  show (0 : Int) ≤ (y.toNat : Int) / 256 ∧ (y.toNat : Int) / 256 ≤ 3
  omega

/-- A control tick gives a next state from reset, where `idx` is 0 and no event waits, and from the same state with
`idx` 1. -/
theorem witness_ControlRegistersHaveTheirWriters :
    (∃ t, exec .ctick State.reset = .next t) ∧ State.reset.blk.idx ≠ 7 ∧ polled Config.block State.reset.evq = [] ∧
    ∃ t, exec .ctick { State.reset with blk := { State.reset.blk with idx := 1 } } = .next t :=
  ⟨⟨_, exec_ctick _⟩, by decide, polled_nil _, ⟨_, exec_ctick _⟩⟩

theorem witness_ControlTickIgnoresAudioSide : ∃ t, exec .ctick State.reset = .next t := ⟨_, exec_ctick _⟩

theorem witness_ChannelIsIgnored :
    ∃ t, exec .ctick { State.reset with evq := [.noteOn 3 60 100] } = .next t := ⟨_, exec_ctick _⟩

/-- Each of the three controllers, waiting in a queue. -/
theorem witness_NoEffectControllers (e : Event)
    (h : e = .ccLearn 0 127 ∨ e = .ccOmni 0 127 ∨ e = .ccOther 0 64 127) :
    ∃ s : State, s.evq = [e] ∧ ∀ e' ∈ polled Config.block s.evq, ∃ (ch : BitVec 4) (ctl val : BitVec 7),
      e' = .ccLearn ch val ∨ e' = .ccOmni ch val ∨ e' = .ccOther ch ctl val := by
  refine ⟨{ State.reset with evq := [e] }, rfl, fun e' he' => ?_⟩
  rw [List.mem_singleton.mp (List.mem_of_mem_take he')]
  exact ⟨0, 64, 127, h⟩

theorem witness_LfoUpdateRecomputesCutoff : b0.lfoDepth ≤ 256 ∧ ({ b0 with lfoDepth := 256 } : Block).lfoDepth ≤ 256 := by
  decide

theorem witness_ModulatedCutoffRange :
    lfoGain (-128) 1 = 0 ∧ lfoGain 127 256 = 0 ∧ modCutoff 256 (lfoGain (-128) 256) = 1 ∧
    (127 : BitVec 8).toInt = 127 ∧ (-128 : BitVec 8).toInt = -128 := by decide

theorem witness_BendRatioRange :
    (-8192 : BitVec 14).toInt ≤ (8191 : BitVec 14).toInt ∧ (0 : BitVec 14).toInt ≤ (0 : BitVec 14).toInt := by decide

theorem witness_GlideOverridesBendOnVoiceTwo :
    ∃ s t : State, exec .ctick s = .next t ∧ t.blk.portaOn = true := by
  refine ⟨{ State.reset with blk := { State.reset.blk with portaOn := true } }, _, exec_ctick _, ?_⟩
  rw [show State.reset.evq = [] from rfl, polled_nil, dispatchAll_nil, afterEvents, Block.commit_portaOn]
  exact (sameControls_steps _ _ _).portaOn

/-- Portamento off, with voice 1 free, and with voice 1 to be stolen. -/
theorem witness_NoteTakesTheRuledVoice :
    b0.portaOn = false ∧ generalVoice b0 = .one ∧ (127 : BitVec 7) ≠ 0 ∧
    generalVoice { b0 with voice1 := held 60 300 200 } = .two ∧
    generalVoice { b0 with voice1 := held 60 300 200, voice2 := held 64 400 200, mostRecentVoice := .two } = .one ∧
    (b0.setKey 0 ⟨true, true, false, false, true⟩).portaOn = false ∧
    ((b0.setKey 0 ⟨true, true, false, false, true⟩).key 0).edge true = some .rising ∧
    ((b0.setKey 12 ⟨true, true, false, false, true⟩).key 12).edge true = some .rising := by
  decide +kernel

theorem witness_PortamentoForcesVoiceTwo :
    let b := ({ b0 with portaOn := true } : Block).setKey 12 ⟨true, true, false, false, true⟩
    b.portaOn = true ∧ (1 : BitVec 7) ≠ 0 ∧ (b.key 12).edge true = some .rising := by decide

theorem witness_KeyAndNoteIdentitiesCollide :
    (12 : BitVec 7).toNat = (12 : Fin 13).val ∧ (0 : BitVec 7).toNat = (0 : Fin 13).val ∧
    ((b0.setKey 12 ⟨false, false, true, true, false⟩).key 12).edge false = some .falling := by decide

/-- Two blocks that differ in the other voice. -/
theorem witness_EnvelopesShareOnlyTheirTimes :
    let d : Block := { b0 with voice2 := held 60 300 200 }
    b0.attackMs = d.attackMs ∧ b0.releaseMs = d.releaseMs ∧ (b0.voice .one).env = (d.voice .one).env := by decide

/-- Idle; a stage with ticks left; a stage of length 0. -/
theorem witness_StageRunsItsLength :
    let b : Block := { b0 with voice1 := held 60 300 200, voice2 := { b0.voice2 with env.stage := .attack } }
    (b0.voice .one).env.stage = .idle ∧ (b.voice .one).env.stage ≠ .idle ∧ (b.voice .one).env.k = 0 ∧
    8 + 1 < (b.voice .one).env.len ∧
    (b.voice .two).env.stage ≠ .idle ∧ (b.voice .two).env.k = 0 ∧ (b.voice .two).env.len = 0 := by
  decide

/-- A falling and a rising ramp. -/
theorem witness_LevelStaysBetweenItsEnds :
    let b : Block := { b0 with
      voice1.env := { Env.reset with stage := .release, start := 200, target := 0, len := 3 }
      voice2.env := { Env.reset with stage := .attack, start := 0, target := 254, len := 3 } }
    let fall := (b.voice .one).env
    let rise := (b.voice .two).env
    fall.stage ≠ .idle ∧ fall.start ≤ 255 ∧ fall.target ≤ 255 ∧ fall.k + 1 < fall.len ∧ fall.target ≤ fall.start ∧
    rise.stage ≠ .idle ∧ rise.k + 1 < rise.len ∧ rise.start ≤ rise.target := by decide

/-- Sustain with a tick left, and with none. -/
theorem witness_SustainEndsOnItsOwn :
    let b (k : Nat) : Block := { b0 with voice1 := { held 60 300 200 with
      env := { (held 60 300 200).env with stage := .sustain, k := k } } }
    ((b 9).voice .one).env.stage = .sustain ∧ ((b 9).voice .one).env.k < ((b 9).voice .one).env.len ∧
    ((b 10).voice .one).env.stage = .sustain ∧ ((b 10).voice .one).env.len ≤ ((b 10).voice .one).env.k := by decide

/-- A rising edge, a falling edge, neither with the key off and with the key on. -/
theorem witness_KeyScanActsByItsEdge :
    let z (x : Key) (sample : Bool) := (x.z && (sample || x.a || x.b)) || (sample && x.a && x.b)
    let up : Key := (b0.setKey 12 ⟨true, true, false, false, true⟩).key 12
    let down : Key := (b0.setKey 0 ⟨false, false, true, true, false⟩).key 0
    (z up true = true ∧ up.avail = true) ∧ (z down false = false ∧ down.avail = false) ∧
    z up false ≠ up.avail ∧ z down true ≠ down.avail := by decide

theorem witness_EveryTickScansEveryKey : ∃ t, exec .ctick State.reset = .next t := ⟨_, exec_ctick _⟩

theorem witness_EdgesAreLatchChanges :
    Key.reset.avail = !Key.reset.z ∧ (⟨true, true, true, true, false⟩ : Key).avail = !true := by decide

theorem witness_HysteresisOverSequences :
    Key.reset.z = false ∧ (⟨true, true, true, true, false⟩ : Key).z = true ∧
    threeInRow true [true, true, false, true, true, false] = false ∧
    threeInRow false [false, false, true, false, false] = false := by decide

/-- Both gains are 0 at reset, and at the largest product below 256. -/
theorem witness_SilentAudioTickCompletes :
    let sh : Shared := { Shared.reset tc with volume := 1, level1 := 255, level2 := 0 }
    (Shared.reset tc).volume.toNat * (Shared.reset tc).level1 < 256 ∧
    (Shared.reset tc).volume.toNat * (Shared.reset tc).level2 < 256 ∧
    sh.volume.toNat * sh.level1 < 256 ∧ sh.volume.toNat * sh.level2 < 256 ∧
    ∃ s : State, s.blk.committed = sh := by
  refine ⟨by decide, by decide, by decide, by decide, ?_⟩
  exact ⟨{ State.reset with blk := { State.reset.blk with
    committed := { Shared.reset tc with volume := 1, level1 := 255, level2 := 0 } } }, rfl⟩

theorem witness_VoiceGainRange : voiceGain 127 255 = 126 ∧ voiceGain 0 255 = 0 ∧ voiceGain 1 255 = 0 ∧
    (1 : BitVec 7).toNat * 255 < 256 := by decide

theorem witness_WideOutputNeverOverflows :
    filtBits tc + 8 ≤ outBits tc + tc.outShift ∧ b0.committed.level1 ≤ 255 ∧
    ({ b0.committed with level2 := 255 } : Shared).level2 ≤ 255 := by decide

/-- Two states that agree on what the renderer reads and differ elsewhere. -/
theorem witness_AudioTickSeesOnlyItsInputs :
    ∃ s s' : State, s'.blk.committed = s.blk.committed ∧
      (∀ v, (s'.blk.voice v).oscPhase = (s.blk.voice v).oscPhase ∧
        (s'.blk.voice v).lpfState = (s.blk.voice v).lpfState) ∧ s'.blk.volume ≠ s.blk.volume :=
  ⟨State.reset, { State.reset with blk := { State.reset.blk with volume := 0 } }, rfl,
    fun v => by cases v <;> exact ⟨rfl, rfl⟩, by decide⟩

/-- An audio tick from reset is not refused, whatever the parameters: both committed levels are 0. -/
theorem witness_AudioRunKeepsControlSide :
    ∃ (s : State) (ps : List Ports), ps.length = 1 ∧ s.cmd = ps.map (fun p => ⟨0x00000002, p⟩) ∧
      Unrefused ps.length s := by
  refine ⟨State.reset.withFetchWord 32 2, [Ports.reset], rfl, rfl, ?_⟩
  have hm : mixOut Config.block (Block.reset Config.block) = 0 := by
    simp [mixOut, voiceSample, Shared.level, Block.reset, Shared.reset, voiceGain, shr, asr]
  have hf : outFits Config.block (mixOut Config.block (Block.reset Config.block)) = true := by
    rw [outFits_iff, hm]
    have : (1 : Int) ≤ 2 ^ (outBits Config.block - 1) := by exact_mod_cast Nat.one_le_two_pow
    omega
  have hs : step (State.reset.withFetchWord 32 2) = _ := exec_atick_of_fits (s := State.reset) hf
  exact ⟨_, core_run_succ hs 0⟩

/-- The premise on the rates: two audio ticks between two control ticks. -/
theorem test_ratePattern :
    ratePattern 2 [2, 1, 2, 2, 1, 0x903C6400, 2, 2, 1, 2] = true ∧ ratePattern 2 [1, 2, 1] = false := by decide

/-- The reset state with an event waiting and a command presented meets the invariant, and steps. -/
theorem witness_StepKeepsTheDomains : ∃ s t : State, s.Ok ∧ s.evq ≠ [] ∧ step s = .next t := by
  refine ⟨({ State.reset with evq := [.noteOn 0 60 100] } : State).withFetchWord 32 1, _,
    ⟨Block.reset_ok, rfl, ?_, ?_⟩, ?_, rfl⟩
  · intro e he
    rw [List.mem_singleton.mp he]
    rfl
  · intro y hy
    cases hy
  · exact List.cons_ne_nil _ _

end Sys2Proof.Tests
end

section
/-! PROOFS. The step (00_scope R11). -/

namespace Sys2Proof.Machine

/-- The step at a presented word of the opcode table (00_scope R11, 20_memory R90). -/
theorem step_of_decode_ok {s : State} {p : Presented} {rest : List Presented} {i : Instr} (hcmd : s.cmd = p :: rest)
    (hdec : decode p.word = .ok i) : step s = exec i (s.present p rest) := by
  unfold step
  rw [hcmd]
  dsimp only
  rw [hdec]

/-- Settles O6: it is the step's equation at a word that decodes, with `State.present` written out. -/
theorem stepRunsDecodedCommand : Obligations.StepRunsDecodedCommand := by
  intro s p rest i hcmd hdec
  calc step s
    _ = exec i (s.present p rest) := step_of_decode_ok hcmd hdec
    _ = exec i { s with ports := p.ports, cmd := rest } := by rw [State.present]

end Sys2Proof.Machine
end

section
/-! PROOFS. A word decodes to a well-formed command only (30_encoding R111). -/

namespace Sys2Proof

/-- A row of the decoder passed over. -/
theorem else_of_ite_ok {p : Prop} [Decidable p] {i j : Instr} {x : Except Reserved Instr}
    (h : (if p then .ok j else x) = .ok i) (hne : j ≠ i) : ¬p ∧ x = .ok i := by
  by_cases hp : p
  · rw [if_pos hp] at h
    exact absurd (Except.ok.inj h) hne
  · rw [if_neg hp] at h
    exact ⟨hp, h⟩

/-- A controller's row selects a format C word exactly when the word names the controller (30_encoding R109). -/
theorem controllerRow_selects {w : Word} (h : rowCcOther.selects w = true) (q : BitVec 7) :
    (OpRow.mk (0xB#4 ++ 0#5 ++ q ++ 0#16) 0xF0FF80FF#32).selects w = true ↔ noteField w = q := by
  have hw : formatNC 0xB (chField w) (noteField w) (valField w) = w := message_of_mask (beq_iff_eq.mp h)
  rw [← hw, selects_controller, noteField_message]
  simp

/-- A word reads as CC.OTHER only when its controller has no row of its own (30_encoding R111). -/
theorem ccOther_wf_of_decode {w : Word} {ch : BitVec 4} {ctl val : BitVec 7}
    (h : decode w = .ok (.ccOther ch ctl val)) : (Instr.ccOther ch ctl val).wf = true := by
  unfold decode at h
  iterate 5 replace h := (else_of_ite_ok h nofun).2
  obtain ⟨hMod, h⟩ := else_of_ite_ok h nofun
  obtain ⟨hPorta, h⟩ := else_of_ite_ok h nofun
  obtain ⟨hVol, h⟩ := else_of_ite_ok h nofun
  obtain ⟨hPbRange, h⟩ := else_of_ite_ok h nofun
  obtain ⟨hLearn, h⟩ := else_of_ite_ok h nofun
  obtain ⟨hOmni, h⟩ := else_of_ite_ok h nofun
  by_cases hOther : rowCcOther.selects w = true
  · rw [if_pos hOther] at h
    cases h
    have row := controllerRow_selects hOther
    have h1 := mt (row 1).mpr hMod
    have h5 := mt (row 5).mpr hPorta
    have h7 := mt (row 7).mpr hVol
    have h20 := mt (row 20).mpr hPbRange
    have h124 := mt (row 124).mpr hLearn
    have h125 := mt (row 125).mpr hOmni
    simpa [Instr.wf, recognisedControllers] using ⟨h1, h5, h7, h20, h124, h125⟩
  · rw [if_neg hOther] at h
    exact absurd (else_of_ite_ok h nofun).2 nofun

/-- Every command that a word decodes to is well formed: CC.OTHER is the only one with a check. -/
theorem wf_of_decode {w : Word} {i : Instr} (h : decode w = .ok i) : i.wf = true := by
  cases i with
  | ccOther ch ctl val => exact ccOther_wf_of_decode h
  | _ => rfl

end Sys2Proof
end

section
/-! PROOFS. Every step keeps the machine's invariant (10_state). -/

namespace Sys2Proof.Machine

/-! ## What a step can do -/

/-- A command is one of the three strobes or an event (30_encoding R103, R104). -/
theorem instr_cases (i : Instr) : i = .ctick ∨ i = .atick ∨ i = .reset ∨ ∃ e : Event, i = e.toInstr := by
  cases i with
  | ctick => exact .inl rfl
  | atick => exact .inr (.inl rfl)
  | reset => exact .inr (.inr (.inl rfl))
  | noteOff ch note vel => exact .inr (.inr (.inr ⟨.noteOff ch note vel, rfl⟩))
  | noteOn ch note vel => exact .inr (.inr (.inr ⟨.noteOn ch note vel, rfl⟩))
  | ccMod ch val => exact .inr (.inr (.inr ⟨.ccMod ch val, rfl⟩))
  | ccPorta ch val => exact .inr (.inr (.inr ⟨.ccPorta ch val, rfl⟩))
  | ccVol ch val => exact .inr (.inr (.inr ⟨.ccVol ch val, rfl⟩))
  | ccPbRange ch val => exact .inr (.inr (.inr ⟨.ccPbRange ch val, rfl⟩))
  | ccLearn ch val => exact .inr (.inr (.inr ⟨.ccLearn ch val, rfl⟩))
  | ccOmni ch val => exact .inr (.inr (.inr ⟨.ccOmni ch val, rfl⟩))
  | ccOther ch ctl val => exact .inr (.inr (.inr ⟨.ccOther ch ctl val, rfl⟩))
  | bend ch value => exact .inr (.inr (.inr ⟨.bend ch value, rfl⟩))

/-- An event's command appends it to `EVQ` (30_encoding R104). -/
theorem exec_event (e : Event) (s : State) : exec e.toInstr s = .next (s.enqueue e) := by
  cases e <;> rfl

/-- RESET (70_reset_and_hazards R380). -/
theorem exec_reset (s : State) : exec .reset s = .next { s with blk := Block.reset Config.block } := rfl

/-- A step with a next state holds an idle block, or carries out a command that the head of `cmd` decodes to
(00_scope R11). -/
theorem step_next_cases {s t : State} (h : step s = .next t) :
    t = s ∨ ∃ p rest i, decode p.word = .ok i ∧ exec i (s.present p rest) = .next t := by
  cases hcmd : s.cmd with
  | nil =>
    have hidle : step s = .next s := by simp only [step, hcmd]
    exact .inl (Host.Outcome.next.inj (h.symm.trans hidle))
  | cons p rest =>
    cases hdec : decode p.word with
    | ok i => exact .inr ⟨p, rest, i, hdec, (step_of_decode_ok hcmd hdec).symm.trans h⟩
    | error why =>
      have hrefused : step s = .refused (.reservedEncoding why) := by simp only [step, hcmd, hdec]
      exact nomatch h.symm.trans hrefused

/-! ## Each operation on the state keeps the invariant -/

theorem State.Ok.present {s : State} (h : s.Ok) (p : Presented) (rest : List Presented) : (s.present p rest).Ok :=
  ⟨h.blk, h.agree, h.evq, h.samples⟩

theorem State.Ok.enqueue {s : State} (h : s.Ok) {e : Event} (he : e.toInstr.wf = true) : (s.enqueue e).Ok where
  blk := h.blk
  agree := h.agree
  evq e' he' := by
    rw [State.enqueue_evq] at he'
    rcases List.mem_append.mp he' with hold | hnew
    · exact h.evq e' hold
    · rw [List.mem_singleton.mp hnew]
      exact he
  samples := h.samples

theorem beforeEvents_ok {c : Config} {b : Block} (h : b.Ok c) (p : Ports) : (beforeEvents c p b).Ok c :=
  lfoCutoffUpdate_ok (paramPoll_ok h p)

/-- The control tick keeps the domains, commits (20_memory R83), and only takes words from `EVQ`. -/
theorem ctick_ok {s t : State} (h : s.Ok) (hx : exec .ctick s = .next t) : t.Ok := by
  rw [ctick_next hx]
  exact ⟨afterEvents_ok (dispatchAll_ok (beforeEvents_ok h.blk _) _) _, afterEvents_committed _ _ _,
    fun e he => h.evq e (List.mem_of_mem_drop he), h.samples⟩

/-- The audio tick writes no shared register, and its sample fits `OUT_BITS` (45_audio_renderer R290). -/
theorem atick_ok {s t : State} (h : s.Ok) (hx : exec .atick s = .next t) : t.Ok := by
  obtain ⟨hfits, rfl⟩ := atick_next hx
  refine ⟨renderBlock_ok h.blk, h.agree, h.evq, fun y hy => ?_⟩
  rcases List.mem_append.mp hy with hold | hnew
  · exact h.samples y hold
  · rw [List.mem_singleton.mp hnew]
    exact hfits

theorem State.Ok.reset {s : State} (h : s.Ok) : State.Ok { s with blk := Block.reset Config.block } :=
  ⟨Block.reset_ok, rfl, h.evq, h.samples⟩

/-- A well-formed command keeps the invariant. -/
theorem exec_ok {i : Instr} {s t : State} (hi : i.wf = true) (h : s.Ok) (hx : exec i s = .next t) : t.Ok := by
  obtain rfl | rfl | rfl | ⟨e, rfl⟩ := instr_cases i
  · exact ctick_ok h hx
  · exact atick_ok h hx
  · rw [← Host.Outcome.next.inj ((exec_reset s).symm.trans hx)]
    exact h.reset
  · rw [← Host.Outcome.next.inj ((exec_event e s).symm.trans hx)]
    exact h.enqueue hi

/-- Settles O53: an idle step holds the state, and every command that decodes is well formed and keeps the
invariant. -/
theorem stepKeepsTheDomains : Obligations.StepKeepsTheDomains := by
  intro s t h hstep
  obtain rfl | ⟨p, rest, i, hdec, hx⟩ := step_next_cases hstep
  · exact h
  · exact exec_ok (wf_of_decode hdec) (h.present p rest) hx

end Sys2Proof.Machine
end

section
/-! PROOFS. The writers of the control registers over a control tick (10_state R42 to R53). -/

namespace Sys2Proof.Machine

variable (c : Config)

/-- `d` has the control registers of `b`, but for those that a poll of parameter `i` or a word of `q` writes
(10_state R42, R44, R49 to R53). -/
structure ControlsWrittenBy (i : Fin 8) (q : List Event) (b d : Block) : Prop where
  baseCutoff : i ≠ 0 → d.baseCutoff = b.baseCutoff
  waveSel : i ≠ 1 → d.waveSel = b.waveSel
  octave : i ≠ 2 → d.octave = b.octave
  attackMs : i ≠ 3 → d.attackMs = b.attackMs
  releaseMs : i ≠ 4 → d.releaseMs = b.releaseMs
  lfoWave : i ≠ 5 → d.lfoWave = b.lfoWave
  lfoSpeed : i ≠ 6 → d.lfoSpeed = b.lfoSpeed
  lfoDepth : i ≠ 7 → (∀ ch val, Event.ccMod ch val ∉ q) → d.lfoDepth = b.lfoDepth
  volume : (∀ ch val, Event.ccVol ch val ∉ q) → d.volume = b.volume
  pbRange : (∀ ch val, Event.ccPbRange ch val ∉ q) → d.pbRange = b.pbRange
  porta : (∀ ch val, Event.ccPorta ch val ∉ q) → d.portaOn = b.portaOn ∧ d.portaMs = b.portaMs
  bend : (∀ ch value, Event.bend ch value ∉ q) → d.bend = b.bend ∧ d.ratio = b.ratio

variable {i : Fin 8} {q : List Event} {a b d : Block}

theorem ControlsWrittenBy.trans (h : ControlsWrittenBy i q a b) (h' : ControlsWrittenBy i q b d) :
    ControlsWrittenBy i q a d where
  baseCutoff hi := (h'.baseCutoff hi).trans (h.baseCutoff hi)
  waveSel hi := (h'.waveSel hi).trans (h.waveSel hi)
  octave hi := (h'.octave hi).trans (h.octave hi)
  attackMs hi := (h'.attackMs hi).trans (h.attackMs hi)
  releaseMs hi := (h'.releaseMs hi).trans (h.releaseMs hi)
  lfoWave hi := (h'.lfoWave hi).trans (h.lfoWave hi)
  lfoSpeed hi := (h'.lfoSpeed hi).trans (h.lfoSpeed hi)
  lfoDepth hi hq := (h'.lfoDepth hi hq).trans (h.lfoDepth hi hq)
  volume hq := (h'.volume hq).trans (h.volume hq)
  pbRange hq := (h'.pbRange hq).trans (h.pbRange hq)
  porta hq := ⟨(h'.porta hq).1.trans (h.porta hq).1, (h'.porta hq).2.trans (h.porta hq).2⟩
  bend hq := ⟨(h'.bend hq).1.trans (h.bend hq).1, (h'.bend hq).2.trans (h.bend hq).2⟩

/-- Blocks with the same control registers: nothing was written. -/
theorem SameControls.writtenBy (h : SameControls b d) : ControlsWrittenBy i q b d :=
  ⟨fun _ => h.baseCutoff, fun _ => h.waveSel, fun _ => h.octave, fun _ => h.attackMs, fun _ => h.releaseMs,
    fun _ => h.lfoWave, fun _ => h.lfoSpeed, fun _ _ => h.lfoDepth, fun _ => h.volume, fun _ => h.pbRange,
    fun _ => ⟨h.portaOn, h.portaMs⟩, fun _ => ⟨h.bend, h.ratio⟩⟩

theorem ControlsWrittenBy.refl : ControlsWrittenBy i q b b := (SameControls.refl b).writtenBy

/-- The poll writes the parameter `idx` selects (46_scheduler R313). -/
theorem paramPoll_writtenBy (p : Ports) (b : Block) : ControlsWrittenBy b.idx q b (paramPoll c p b) := by
  unfold paramPoll
  generalize mapParam c b.idx (p.adcAt b.idx) = m
  generalize b.idx = i
  fin_cases i <;> constructor <;> simp [setParam]

/-- The LFO update writes `lfoPhase` and `cutoff` only (44_lfo_filter R260, R261). -/
theorem lfoCutoffUpdate_writtenBy (b : Block) : ControlsWrittenBy i q b (lfoCutoffUpdate c b) :=
  { (.refl : ControlsWrittenBy i q b b) with }

/-- A dispatched word writes the registers of its own controller (46_scheduler R317). -/
theorem dispatch_writtenBy {e : Event} (he : e ∈ q) (b : Block) : ControlsWrittenBy i q b (dispatch c e b) := by
  have same : ControlsWrittenBy i q b b := .refl
  cases e with
  | noteOff _ note _ => exact (sameControls_noteOffId c _ b).writtenBy
  | noteOn _ note vel => exact (sameControls_noteOn c note vel b).writtenBy
  | ccMod ch val => exact { same with lfoDepth := fun _ hq => absurd he (hq ch val) }
  | ccPorta ch val => exact { same with porta := fun hq => absurd he (hq ch val) }
  | ccVol ch val => exact { same with volume := fun hq => absurd he (hq ch val) }
  | ccPbRange ch val => exact { same with pbRange := fun hq => absurd he (hq ch val) }
  | ccLearn => exact same
  | ccOmni => exact same
  | ccOther => exact same
  | bend ch value => exact { same with bend := fun hq => absurd he (hq ch value) }

theorem dispatchAll_writtenBy (q : List Event) (b : Block) : ControlsWrittenBy i q b (dispatchAll c q b) :=
  dispatchAll_induction c q .refl fun _ he d hd => hd.trans (dispatch_writtenBy c he d)

/-- The commit writes the committed copy only (20_memory R83). -/
theorem commit_writtenBy (b : Block) : ControlsWrittenBy i q b b.commit :=
  { (.refl : ControlsWrittenBy i q b b) with }

/-- Steps 4 to 7 of the control tick write no control register. -/
theorem afterEvents_writtenBy (p : Ports) (b : Block) : ControlsWrittenBy i q b (afterEvents c p b) :=
  (sameControls_steps c p b).writtenBy.trans (commit_writtenBy _)

/-- The control tick's writers: the poll of parameter `idx` and the words it dispatches. -/
theorem ctick_writtenBy {s t : State} (h : exec .ctick s = .next t) :
    ControlsWrittenBy s.blk.idx (polled Config.block s.evq) s.blk t.blk := by
  rw [ctick_next h]
  exact (paramPoll_writtenBy _ s.ports s.blk).trans <| (lfoCutoffUpdate_writtenBy _ _).trans <|
    (dispatchAll_writtenBy _ _ _).trans (afterEvents_writtenBy _ s.ports _)

/-- The control tick moves the round robin as its poll does (46_scheduler R313). -/
theorem ctick_idx {s t : State} (h : exec .ctick s = .next t) :
    t.blk.idx = (paramPoll Config.block s.ports s.blk).idx := by
  rw [ctick_next h, afterEvents_idx, dispatchAll_idx, beforeEvents_idx]
  rfl

/-- Settles O18, from what each of the tick's operations may write. -/
theorem controlRegistersHaveTheirWriters : Obligations.ControlRegistersHaveTheirWriters := by
  intro s t h
  have w := ctick_writtenBy h
  exact ⟨ctick_idx h, w.baseCutoff, w.waveSel, w.octave, w.attackMs, w.releaseMs, w.lfoWave, w.lfoSpeed, w.lfoDepth,
    w.volume, w.pbRange, w.porta, w.bend⟩

end Sys2Proof.Machine
end

section
/-! PROOFS. The edges of a key scan (40_key_scanner R143, R144, R147). -/

namespace Sys2Proof.Machine

@[simp] theorem Key.scan_z (x : Key) (sample : Bool) : (x.scan sample).z = x.nextZ sample := rfl

/-- A scan emits a rising edge exactly when it leaves the key latched and found it available (40_key_scanner R143). -/
theorem Key.edge_eq_rising_iff (x : Key) (sample : Bool) :
    x.edge sample = some .rising ↔ x.nextZ sample = true ∧ x.avail = true := by
  unfold Key.edge
  cases x.nextZ sample <;> cases x.avail <;> decide

/-- A scan emits a falling edge exactly when it leaves the key unlatched and found it unavailable
(40_key_scanner R144). -/
theorem Key.edge_eq_falling_iff (x : Key) (sample : Bool) :
    x.edge sample = some .falling ↔ x.nextZ sample = false ∧ x.avail = false := by
  unfold Key.edge
  cases x.nextZ sample <;> cases x.avail <;> decide

/-- Settles O43: where `avail` is the complement of `Z`, "available" in an edge's condition reads "not latched". -/
theorem edgesAreLatchChanges : Obligations.EdgesAreLatchChanges := by
  intro x sample h
  refine ⟨Key.scan_ok h sample, ?_, ?_⟩
  · rw [Key.edge_eq_rising_iff, Key.scan_z, h, Bool.not_eq_true', and_comm]
  · rw [Key.edge_eq_falling_iff, Key.scan_z, h, Bool.not_eq_false', and_comm]

end Sys2Proof.Machine
end

section
/-! PROOFS. The audio side and the shared registers (20_memory R82 to R85). -/

namespace Sys2Proof.Machine

variable (c : Config)

/-! ## The audio-side registers of a voice -/

/-- A voice's audio side: its oscillator phase and its filter state (20_memory R85). -/
def Block.audio (b : Block) (v : VoiceNo) : Phase × FilterState := ((b.voice v).oscPhase, (b.voice v).lpfState)

theorem sameAudio_iff {b d : Block} : SameAudio b d ↔ ∀ v, d.audio v = b.audio v :=
  forall_congr' fun _ => Prod.mk_inj.symm

@[simp] theorem Block.audio_withAudio_one (b : Block) (one two : Phase × FilterState) :
    (b.withAudio one two).audio .one = one := rfl

@[simp] theorem Block.audio_withAudio_two (b : Block) (one two : Phase × FilterState) :
    (b.withAudio one two).audio .two = two := rfl

@[simp] theorem Block.withAudio_withAudio (b : Block) (one two one' two' : Phase × FilterState) :
    (b.withAudio one two).withAudio one' two' = b.withAudio one' two' := rfl

@[simp] theorem Block.withAudio_audio (b : Block) : b.withAudio (b.audio .one) (b.audio .two) = b := rfl

/-! ## The control tick -/

/-- The control tick neither reads nor writes the audio side: on another audio side it gives the same next state,
with that audio side (20_memory R85). -/
theorem exec_ctick_withAudio {s t : State} (h : exec .ctick s = .next t) (one two : Phase × FilterState) :
    exec .ctick { s with blk := s.blk.withAudio one two } = .next { t with blk := t.blk.withAudio one two } := by
  rw [ctick_next h, exec_ctick, beforeEvents_withAudio, dispatchAll_withAudio, afterEvents_withAudio]

/-- The control tick keeps the audio side: put back its own audio side, the block runs to the same next state. -/
theorem ctick_sameAudio {s t : State} (h : exec .ctick s = .next t) : SameAudio s.blk t.blk := by
  have hrun := exec_ctick_withAudio h (s.blk.audio .one) (s.blk.audio .two)
  rw [Block.withAudio_audio, h] at hrun
  have hblk : t.blk = t.blk.withAudio (s.blk.audio .one) (s.blk.audio .two) :=
    congrArg State.blk (Host.Outcome.next.inj hrun)
  rw [sameAudio_iff]
  intro v
  rw [hblk]
  cases v with
  | one => exact Block.audio_withAudio_one ..
  | two => exact Block.audio_withAudio_two ..

theorem ctick_committed {s t : State} (h : exec .ctick s = .next t) : t.blk.committed = t.blk.shared := by
  rw [ctick_next h]
  exact afterEvents_committed ..

/-- Settles O19: the commit is the tick's last step, and each of its operations commutes with a change of the audio
side. -/
theorem controlTickIgnoresAudioSide : Obligations.ControlTickIgnoresAudioSide := by
  intro s t h
  exact ⟨ctick_committed h, ctick_sameAudio h, fun one two => exec_ctick_withAudio h one two⟩

/-! ## What the audio tick reads -/

/-- A voice's oscillator and filter read the committed copy and the voice's audio side (45_audio_renderer R291). -/
theorem oscOut_congr (sh : Shared) (v : VoiceNo) {x y : Voice} (hp : y.oscPhase = x.oscPhase) :
    oscOut c sh v y = oscOut c sh v x := by
  rw [oscOut, hp, oscOut]

theorem lpfOut_congr (sh : Shared) (v : VoiceNo) {x y : Voice} (hp : y.oscPhase = x.oscPhase)
    (hl : y.lpfState = x.lpfState) : lpfOut c sh v y = lpfOut c sh v x := by
  rw [lpfOut, hl, oscOut_congr c sh v hp, lpfOut]

theorem voiceSample_congr (sh : Shared) (v : VoiceNo) {x y : Voice} (hp : y.oscPhase = x.oscPhase)
    (hl : y.lpfState = x.lpfState) : voiceSample c sh v y = voiceSample c sh v x := by
  rw [voiceSample, lpfOut_congr c sh v hp hl, voiceSample]

/-- The audio tick advances each voice from the committed copy (45_audio_renderer R290). -/
theorem renderBlock_voice (b : Block) (v : VoiceNo) :
    (renderBlock c b).voice v = renderVoice c b.committed v (b.voice v) := by
  cases v <;> rfl

theorem mixOut_congr {b d : Block} (hc : d.committed = b.committed) (ha : SameAudio b d) :
    mixOut c d = mixOut c b := by
  have hone : voiceSample c b.committed .one d.voice1 = voiceSample c b.committed .one b.voice1 :=
    voiceSample_congr c _ _ (ha .one).1 (ha .one).2
  have htwo : voiceSample c b.committed .two d.voice2 = voiceSample c b.committed .two b.voice2 :=
    voiceSample_congr c _ _ (ha .two).1 (ha .two).2
  rw [mixOut, hc, hone, htwo, mixOut]

theorem renderBlock_sameAudio {b d : Block} (hc : d.committed = b.committed) (ha : SameAudio b d) :
    SameAudio (renderBlock c b) (renderBlock c d) := by
  intro v
  obtain ⟨hp, hl⟩ := ha v
  rw [renderBlock_voice, renderBlock_voice, hc]
  exact ⟨congrArg Prod.fst (oscOut_congr c _ v hp), congrArg Prod.fst (lpfOut_congr c _ v hp hl)⟩

/-- Settles O49: the sample, and with it the refusal, and the audio side that the tick leaves depend on the
committed copy and the audio side it finds. -/
theorem audioTickSeesOnlyItsInputs : Obligations.AudioTickSeesOnlyItsInputs := by
  intro s s' hc ha
  have hmix : mixOut Config.block s'.blk = mixOut Config.block s.blk := mixOut_congr _ hc ha
  by_cases hf : outFits Config.block (mixOut Config.block s.blk) = true
  · have hf' : outFits Config.block (mixOut Config.block s'.blk) = true := by rwa [hmix]
    exact .inr ⟨_, _, mixOut Config.block s.blk, exec_atick_of_fits hf, exec_atick_of_fits hf', rfl, by rw [hmix],
      renderBlock_sameAudio _ hc ha⟩
  · have hf' : ¬ outFits Config.block (mixOut Config.block s'.blk) = true := by rwa [hmix]
    exact .inl ⟨exec_atick_of_not_fits hf, exec_atick_of_not_fits hf'⟩

/-! ## A run of audio ticks -/

/-- A run with one step more that ends in a next state begins with a step to a next state. -/
theorem run_succ_next {M : Host.Core} {n : Nat} {s u : M.State} (h : M.run (n + 1) s = .next u) :
    ∃ t, M.step s = .next t ∧ M.run n t = .next u := by
  rw [Host.Core.run] at h
  cases hs : M.step s with
  | next t => exact ⟨t, rfl, by rwa [hs] at h⟩
  | fault r => exact nomatch (hs ▸ h)
  | refused r => exact nomatch (hs ▸ h)

/-- What `n` audio ticks may do to a state: change the audio side and produce `n` samples (20_memory R84,
45_audio_renderer R295). -/
structure AudioTicks (n : Nat) (s t : State) : Prop where
  evq : t.evq = s.evq
  blk : ∃ one two : Phase × FilterState, t.blk = s.blk.withAudio one two
  samples : ∃ ys : List Int, observation t = observation s ++ ys ∧ ys.length = n

theorem AudioTicks.refl (s : State) : AudioTicks 0 s s :=
  ⟨rfl, ⟨_, _, s.blk.withAudio_audio.symm⟩, ⟨[], (List.append_nil _).symm, rfl⟩⟩

theorem AudioTicks.trans {m n : Nat} {s t u : State} (h : AudioTicks m s t) (h' : AudioTicks n t u) :
    AudioTicks (m + n) s u := by
  obtain ⟨one, two, hblk⟩ := h.blk
  obtain ⟨one', two', hblk'⟩ := h'.blk
  obtain ⟨ys, hys, hm⟩ := h.samples
  obtain ⟨zs, hzs, hn⟩ := h'.samples
  refine ⟨h'.evq.trans h.evq, ⟨one', two', ?_⟩, ⟨ys ++ zs, ?_, ?_⟩⟩
  · rw [hblk', hblk, Block.withAudio_withAudio]
  · rw [hzs, hys, List.append_assoc]
  · rw [List.length_append, hm, hn]

/-- Taking a command from the environment changes nothing of the block (00_scope R11). -/
theorem audioTicks_present (s : State) (p : Presented) (rest : List Presented) : AudioTicks 0 s (s.present p rest) :=
  { AudioTicks.refl s with }

theorem renderBlock_withAudio (b : Block) :
    renderBlock c b = b.withAudio ((renderBlock c b).audio .one) ((renderBlock c b).audio .two) := rfl

theorem audioTicks_atick {s t : State} (h : exec .atick s = .next t) : AudioTicks 1 s t := by
  obtain ⟨-, rfl⟩ := atick_next h
  exact ⟨rfl, ⟨_, _, renderBlock_withAudio ..⟩, ⟨[mixOut Config.block s.blk], rfl, rfl⟩⟩

/-- A presented audio tick (30_encoding R103) is one audio tick, and leaves the commands that follow it. -/
theorem step_atick_next {s t : State} {p : Ports} {rest : List Presented} (hcmd : s.cmd = ⟨0x00000002, p⟩ :: rest)
    (h : step s = .next t) : t.cmd = rest ∧ AudioTicks 1 s t := by
  have hdec : decode 0x00000002 = .ok .atick := by decide
  rw [step_of_decode_ok hcmd hdec] at h
  refine ⟨?_, (audioTicks_present s _ rest).trans (audioTicks_atick h)⟩
  obtain ⟨-, rfl⟩ := atick_next h
  rfl

/-- A run over presented audio ticks is as many audio ticks. -/
theorem audioTicks_run {ps : List Ports} {s t : State} (hcmd : s.cmd = ps.map (fun p => ⟨0x00000002, p⟩))
    (h : core.run ps.length s = .next t) : AudioTicks ps.length s t := by
  induction ps generalizing s with
  | nil =>
    rw [← Host.Outcome.next.inj h]
    exact .refl s
  | cons p ps ih =>
    obtain ⟨u, hstep, hrun⟩ := run_succ_next h
    obtain ⟨hrest, htick⟩ := step_atick_next hcmd hstep
    rw [List.length_cons, Nat.add_comm]
    exact htick.trans (ih hrest hrun)

/-- Settles O50, by induction over the ticks of the run, from what one audio tick may change. -/
theorem audioRunKeepsControlSide : Obligations.AudioRunKeepsControlSide := by
  intro s ps hcmd hrun
  obtain ⟨t, ht⟩ := hrun
  obtain ⟨hevq, hblk, hsamples⟩ := audioTicks_run hcmd ht
  exact ⟨t, ht, hevq, hblk, hsamples⟩

end Sys2Proof.Machine
end

section
/-! PROOFS. The opcode map as a list of rows, and the round trip of decoder and encoder (30_encoding R109, R111). -/

namespace Sys2Proof

/-! ## The rows overlap nowhere but in CC.OTHER -/

/-- Two rows that select one word agree on the bits that both of them test. -/
theorem selects_agree {r₁ r₂ : OpRow} {w : Word} (h₁ : r₁.selects w = true) (h₂ : r₂.selects w = true) :
    r₁.pattern &&& r₂.mask = r₂.pattern &&& r₁.mask := by
  rw [← beq_iff_eq.mp h₁, ← beq_iff_eq.mp h₂, BitVec.and_assoc, BitVec.and_assoc, BitVec.and_comm r₁.mask]

theorem opField_mask_of_mem : ∀ r ∈ rowCcOther :: exactRows, opField r.mask = 0xF := by decide

theorem exactRows_agree_only_with_themselves : ∀ r₁ ∈ exactRows, ∀ r₂ ∈ exactRows,
    r₁.pattern &&& r₂.mask = r₂.pattern &&& r₁.mask → r₁ = r₂ := by decide

theorem exactRows_disjoint {r₁ r₂ : OpRow} (h₁ : r₁ ∈ exactRows) (h₂ : r₂ ∈ exactRows) {w : Word}
    (hs₁ : r₁.selects w = true) (hs₂ : r₂.selects w = true) : r₁ = r₂ :=
  exactRows_agree_only_with_themselves r₁ h₁ r₂ h₂ (selects_agree hs₁ hs₂)

/-- CC.OTHER shares words with format C rows only (30_encoding R111). -/
theorem opField_of_selects_ccOther {r : OpRow} (hr : r ∈ exactRows) {w : Word} (h : r.selects w = true)
    (hOther : rowCcOther.selects w = true) : opField r.pattern = 0xB :=
  calc opField r.pattern
    _ = opField w := (opField_of_selects (opField_mask_of_mem r (List.mem_cons_of_mem _ hr)) h).symm
    _ = 0xB := opField_of_selects (r := rowCcOther) rfl hOther

/-! ## The decoder as a search of the opcode map -/

/-- The rows other than CC.OTHER, each with the command it reads from a word (30_encoding R109, R110). -/
def exactEntries : List (OpRow × (Word → Instr)) :=
  [(rowCtick, fun _ => .ctick), (rowAtick, fun _ => .atick), (rowReset, fun _ => .reset),
    (rowNoteOff, fun w => .noteOff (chField w) (noteField w) (valField w)),
    (rowNoteOn, fun w => .noteOn (chField w) (noteField w) (valField w)),
    (rowCcMod, fun w => .ccMod (chField w) (valField w)),
    (rowCcPorta, fun w => .ccPorta (chField w) (valField w)),
    (rowCcVol, fun w => .ccVol (chField w) (valField w)),
    (rowCcPbRange, fun w => .ccPbRange (chField w) (valField w)),
    (rowCcLearn, fun w => .ccLearn (chField w) (valField w)),
    (rowCcOmni, fun w => .ccOmni (chField w) (valField w)),
    (rowBend, fun w => .bend (chField w) (bendField w))]

theorem exactEntries_rows : exactEntries.map Prod.fst = exactRows := rfl

theorem row_mem_exactRows {e : OpRow × (Word → Instr)} (he : e ∈ exactEntries) : e.1 ∈ exactRows :=
  List.mem_map_of_mem (f := Prod.fst) he

/-- The decoder's answer for a word that selects no row but, perhaps, CC.OTHER. -/
def decodeOther (w : Word) : Except Reserved Instr :=
  if rowCcOther.selects w then .ok (.ccOther (chField w) (noteField w) (valField w)) else .error (reservedReason w)

/-- The first entry's row decides a search, or leaves it to the entries after it. -/
theorem elim_find_cons {α β : Type} (a : α) (l : List α) (p : α → Bool) (d : β) (f : α → β) :
    ((a :: l).find? p).elim d f = if p a then f a else (l.find? p).elim d f := by
  cases h : p a <;> simp [h]

/-- The decoder answers with the first row that selects the word, CC.OTHER being tried last (30_encoding R111): BEND,
which stands after it in the decoder, shares no word with it. -/
theorem decode_eq_find (w : Word) :
    decode w = (exactEntries.find? fun e => e.1.selects w).elim (decodeOther w) fun e => .ok (e.2 w) := by
  have hBend : rowBend.selects w = true → rowCcOther.selects w = false := fun h => by
    cases hOther : rowCcOther.selects w
    · rfl
    · exact absurd (opField_of_selects_ccOther (by decide) h hOther) (by decide)
  simp only [exactEntries, elim_find_cons, List.find?_nil, Option.elim_none, decodeOther, decode]
  by_cases h : rowBend.selects w = true
  · simp only [h, hBend h, if_true, Bool.false_eq_true, if_false]
  · simp only [h, Bool.false_eq_true, if_false]

theorem decode_of_no_exact {w : Word} (h : ∀ r ∈ exactRows, r.selects w = false) : decode w = decodeOther w := by
  have hnone : exactEntries.find? (fun e => e.1.selects w) = none :=
    List.find?_eq_none.mpr fun e he => by simp [h e.1 (row_mem_exactRows he)]
  rw [decode_eq_find, hnone, Option.elim_none]

theorem decode_of_exact {e : OpRow × (Word → Instr)} (he : e ∈ exactEntries) {w : Word} (h : e.1.selects w = true) :
    decode w = .ok (e.2 w) := by
  rw [decode_eq_find]
  cases hf : exactEntries.find? (fun e => e.1.selects w) with
  | none => exact absurd h (List.find?_eq_none.mp hf e he)
  | some e' =>
    have he' := List.mem_of_find?_eq_some hf
    have hrow : e'.1 = e.1 := exactRows_disjoint (row_mem_exactRows he') (row_mem_exactRows he)
      (List.find?_some (p := fun e : OpRow × (Word → Instr) => e.1.selects w) hf) h
    have hrows : (exactEntries.map Prod.fst).Nodup := by decide
    rw [List.inj_on_of_nodup_map hrows he' he hrow, Option.elim_some]

/-- A word selects an exact row, whose command it decodes to, or none, and it decodes to CC.OTHER or is reserved. -/
theorem decode_cases (w : Word) :
    (∃ e ∈ exactEntries, e.1.selects w = true ∧ decode w = .ok (e.2 w)) ∨
    ((∀ r ∈ exactRows, r.selects w = false) ∧ decode w = decodeOther w) := by
  by_cases h : ∃ e ∈ exactEntries, e.1.selects w = true
  · obtain ⟨e, he, hs⟩ := h
    exact .inl ⟨e, he, hs, decode_of_exact he hs⟩
  · have hno : ∀ r ∈ exactRows, r.selects w = false := fun r hr => by
      obtain ⟨e, he, rfl⟩ := List.mem_map.mp (exactEntries_rows ▸ hr)
      exact Bool.eq_false_iff.mpr fun hs => h ⟨e, he, hs⟩
    exact .inr ⟨hno, decode_of_no_exact hno⟩

/-! ## Encode of decode -/

/-- A row with a full mask selects its pattern only. -/
theorem eq_pattern_of_selects {p w : Word} (h : (OpRow.mk p 0xFFFFFFFF).selects w = true) : p = w :=
  (beq_iff_eq.mp h).symm.trans (BitVec.and_allOnes (x := w))

/-- The command that a row reads from a word it selects is the command of that word: the row fixes every bit that is
in no operand (30_encoding R108). -/
theorem encode_of_exactEntry {w : Word} : ∀ e ∈ exactEntries, e.1.selects w = true → encode (e.2 w) = w := by
  simp only [exactEntries, List.forall_mem_cons, List.not_mem_nil, false_imp_iff, implies_true, and_true]
  refine ⟨eq_pattern_of_selects, eq_pattern_of_selects, eq_pattern_of_selects, ?noteOff, ?noteOn, ?ccMod, ?ccPorta,
    ?ccVol, ?ccPbRange, ?ccLearn, ?ccOmni, ?bend⟩
  case bend => exact fun h => bend_of_mask (beq_iff_eq.mp h)
  case noteOff | noteOn => exact fun h => message_of_mask (beq_iff_eq.mp h)
  all_goals exact fun h => controller_of_mask (beq_iff_eq.mp h)

theorem encode_of_decode {w : Word} {i : Instr} (h : decode w = .ok i) : encode i = w := by
  rcases decode_cases w with ⟨e, he, hs, hdec⟩ | ⟨-, hdec⟩
  · rw [← Except.ok.inj (hdec.symm.trans h)]
    exact encode_of_exactEntry e he hs
  · rw [hdec, decodeOther] at h
    split at h
    · rw [← Except.ok.inj h]
      exact message_of_mask (beq_iff_eq.mp ‹_›)
    · exact nomatch h

/-- Settles O2: each row that selects a word reads from it the command that the word encodes. -/
theorem encodeOfDecode : Obligations.EncodeOfDecode :=
  fun _ _ h => ⟨encode_of_decode h, wf_of_decode h⟩

/-! ## Decode of encode -/

theorem controllerRow_of_opField : ∀ r ∈ exactRows, opField r.pattern = 0xB →
    ∃ q ∈ recognisedControllers, r = OpRow.mk (0xB#4 ++ 0#5 ++ q ++ 0#16) 0xF0FF80FF#32 := by decide

/-- A format C word whose controller has no row of its own selects CC.OTHER only (30_encoding R111). -/
theorem no_exact_of_ccOther {w : Word} (h : rowCcOther.selects w = true) (hctl : noteField w ∉ recognisedControllers) :
    ∀ r ∈ exactRows, r.selects w = false := by
  intro r hr
  by_contra hs
  rw [Bool.not_eq_false] at hs
  obtain ⟨q, hq, rfl⟩ := controllerRow_of_opField r hr (opField_of_selects_ccOther hr hs h)
  rw [(controllerRow_selects h q).mp hs] at hctl
  exact hctl hq

theorem decode_encode_ccOther (ch : BitVec 4) {ctl : BitVec 7} (hctl : ctl ∉ recognisedControllers) (val : BitVec 7) :
    decode (encode (.ccOther ch ctl val)) = .ok (.ccOther ch ctl val) := by
  have hs : rowCcOther.selects (formatNC 0xB ch ctl val) = true := Laws.Selects.ccOther ch ctl val
  rw [encode, decode_of_no_exact (no_exact_of_ccOther hs (by rwa [noteField_message])), decodeOther, if_pos hs,
    chField_message, noteField_message, valField_message]

/-- The word of a command other than CC.OTHER selects an exact row, which reads the operands back. -/
theorem exactEntry_reads_encode (i : Instr) (hi : ∀ ch ctl val, i ≠ .ccOther ch ctl val) :
    ∃ e ∈ exactEntries, e.1.selects (encode i) = true ∧ e.2 (encode i) = i := by
  cases i with
  | ctick => exact ⟨exactEntries[0], List.getElem_mem _, Laws.Selects.ctick, rfl⟩
  | atick => exact ⟨exactEntries[1], List.getElem_mem _, Laws.Selects.atick, rfl⟩
  | reset => exact ⟨exactEntries[2], List.getElem_mem _, Laws.Selects.reset, rfl⟩
  | noteOff ch note vel => exact ⟨exactEntries[3], List.getElem_mem _, Laws.Selects.noteOff ch note vel,
      by simp [exactEntries, encode]⟩
  | noteOn ch note vel => exact ⟨exactEntries[4], List.getElem_mem _, Laws.Selects.noteOn ch note vel,
      by simp [exactEntries, encode]⟩
  | ccMod ch val => exact ⟨exactEntries[5], List.getElem_mem _, Laws.Selects.ccMod ch val,
      by simp [exactEntries, encode]⟩
  | ccPorta ch val => exact ⟨exactEntries[6], List.getElem_mem _, Laws.Selects.ccPorta ch val,
      by simp [exactEntries, encode]⟩
  | ccVol ch val => exact ⟨exactEntries[7], List.getElem_mem _, Laws.Selects.ccVol ch val,
      by simp [exactEntries, encode]⟩
  | ccPbRange ch val => exact ⟨exactEntries[8], List.getElem_mem _, Laws.Selects.ccPbRange ch val,
      by simp [exactEntries, encode]⟩
  | ccLearn ch val => exact ⟨exactEntries[9], List.getElem_mem _, Laws.Selects.ccLearn ch val,
      by simp [exactEntries, encode]⟩
  | ccOmni ch val => exact ⟨exactEntries[10], List.getElem_mem _, Laws.Selects.ccOmni ch val,
      by simp [exactEntries, encode]⟩
  | bend ch value => exact ⟨exactEntries[11], List.getElem_mem _, Laws.Selects.bend ch value,
      by simp [exactEntries, encode]⟩
  | ccOther ch ctl val => exact absurd rfl (hi ch ctl val)

/-- Settles O1: the word of a command selects the command's own row, and with CC.OTHER no row before it. -/
theorem decodeOfEncode : Obligations.DecodeOfEncode := by
  intro i hwf
  by_cases hOther : ∃ ch ctl val, i = .ccOther ch ctl val
  · obtain ⟨ch, ctl, val, rfl⟩ := hOther
    exact decode_encode_ccOther ch (by simpa [Instr.wf] using hwf) val
  · obtain ⟨e, he, hs, hread⟩ := exactEntry_reads_encode i fun ch ctl val h => hOther ⟨ch, ctl, val, h⟩
    rw [decode_of_exact he hs, hread]

/-! ## The opcode map is unambiguous -/

theorem encode_controllerInstr (ch : BitVec 4) (ctl val : BitVec 7) :
    encode (controllerInstr ch ctl val) = formatNC 0xB ch ctl val ∧ (controllerInstr ch ctl val).wf = true := by
  unfold controllerInstr
  split_ifs <;> simp_all [encode, Instr.wf, recognisedControllers]

/-- Settles O4: two exact rows disagree on a bit that both test, a row that shares a word with CC.OTHER has its `OP`,
and every format C and NOTEON word is the word of a command, which it decodes to. -/
theorem opcodeMapUnambiguous : Obligations.OpcodeMapUnambiguous := by
  refine ⟨fun r₁ h₁ r₂ h₂ w => exactRows_disjoint h₁ h₂, fun r hr w => opField_of_selects_ccOther hr,
    fun ch ctl val => ⟨Laws.Selects.ccOther ch ctl val, ?_⟩, fun ch note => decodeOfEncode (.noteOn ch note 0) rfl⟩
  obtain ⟨hword, hwf⟩ := encode_controllerInstr ch ctl val
  rw [← hword]
  exact decodeOfEncode _ hwf

end Sys2Proof
end

section
/-! PROOFS. The reserved words (30_encoding R112). -/

namespace Sys2Proof

/-! ## A word as its fields, the fixed ones included -/

theorem strobe_fields (w : Word) : opField w ++ w.extractLsb' 8 20 ++ subField w = w := by
  apply BitVec.eq_of_getLsbD_eq
  intro i hi
  simp only [opField, subField, BitVec.getLsbD_append, BitVec.getLsbD_extractLsb']
  interval_cases i <;> simp

theorem message_fields (w : Word) :
    opField w ++ chField w ++ w.extractLsb' 23 1 ++ noteField w ++ w.extractLsb' 15 1 ++ valField w ++
      w.extractLsb' 0 8 = w := by
  apply BitVec.eq_of_getLsbD_eq
  intro i hi
  simp only [opField, chField, noteField, valField, BitVec.getLsbD_append, BitVec.getLsbD_extractLsb']
  interval_cases i <;> simp

theorem bend_fields (w : Word) : opField w ++ chField w ++ w.extractLsb' 14 10 ++ bendField w = w := by
  apply BitVec.eq_of_getLsbD_eq
  intro i hi
  simp only [opField, chField, bendField, BitVec.getLsbD_append, BitVec.getLsbD_extractLsb']
  interval_cases i <;> simp

theorem extractLsb'_eq_zero_iff {w : Word} {start len : Nat} :
    w.extractLsb' start len = 0 ↔ ∀ i < len, w.getLsbD (start + i) = false := by
  constructor
  · intro h i hi
    simpa [hi] using congrArg (fun x : BitVec len => x.getLsbD i) h
  · intro h
    exact BitVec.eq_of_getLsbD_eq fun i hi => by simpa [hi] using h i hi

theorem extractLsb'_one_eq_zero_iff {w : Word} {start : Nat} :
    w.extractLsb' start 1 = 0 ↔ w.getLsbD start = false := by
  rw [extractLsb'_eq_zero_iff]
  exact ⟨fun h => h 0 Nat.one_pos, fun h i hi => by rwa [Nat.lt_one_iff.mp hi]⟩

/-! ## What a word must be for a row to select it, field by field -/

/-- A selected word has the row's bit wherever the row tests it. -/
theorem getLsbD_of_selects {r : OpRow} {w : Word} (h : r.selects w = true) {i : Nat} (hm : r.mask.getLsbD i = true) :
    w.getLsbD i = r.pattern.getLsbD i := by
  simp [← beq_iff_eq.mp h, hm]

/-- Bits that a row tests and has as 0 are 0 in a selected word. -/
theorem extractLsb'_of_selects {r : OpRow} {w : Word} (h : r.selects w = true) {start len : Nat}
    (hzero : ∀ i < len, r.mask.getLsbD (start + i) = true ∧ r.pattern.getLsbD (start + i) = false) :
    w.extractLsb' start len = 0 :=
  extractLsb'_eq_zero_iff.mpr fun i hi => (getLsbD_of_selects h (hzero i hi).1).trans (hzero i hi).2

theorem formatS_eq_iff {w : Word} {sub : BitVec 8} :
    formatS sub = w ↔ opField w = 0x0 ∧ subField w = sub ∧ w.extractLsb' 8 20 = 0 := by
  constructor
  · rintro rfl
    refine ⟨?_, ?_, ?_⟩ <;> apply BitVec.eq_of_getLsbD_eq <;> intro i hi
    all_goals
      simp only [opField, subField, formatS, BitVec.getLsbD_extractLsb', BitVec.getLsbD_append]
      interval_cases i <;> simp
  · rintro ⟨hop, rfl, hmid⟩
    calc formatS (subField w)
      _ = opField w ++ w.extractLsb' 8 20 ++ subField w := by rw [hop, hmid]; rfl
      _ = w := strobe_fields w

/-- The rows of format S (30_encoding R102). -/
theorem selects_strobe_iff {w : Word} {sub : BitVec 8} :
    (OpRow.mk (formatS sub) 0xFFFFFFFF).selects w = true ↔
      opField w = 0x0 ∧ subField w = sub ∧ w.extractLsb' 8 20 = 0 := by
  rw [← formatS_eq_iff]
  exact ⟨eq_pattern_of_selects, fun h => beq_iff_eq.mpr (h ▸ BitVec.and_allOnes)⟩

/-- The rows of formats N and C (30_encoding R105, R106). -/
theorem selects_message_iff {w : Word} {p : BitVec 4} :
    (OpRow.mk (p ++ 0#28) 0xF08080FF#32).selects w = true ↔
      opField w = p ∧ w.getLsbD 23 = false ∧ w.getLsbD 15 = false ∧ w.extractLsb' 0 8 = 0 := by
  rw [← extractLsb'_one_eq_zero_iff, ← extractLsb'_one_eq_zero_iff]
  constructor
  · intro h
    have hop : opField w = p := by rw [← message_of_mask (beq_iff_eq.mp h), opField_message]
    have hzero : ∀ start len, start + len ≤ 28 → (∀ i < len, (0xF08080FF#32).getLsbD (start + i) = true) →
        w.extractLsb' start len = 0 := fun start len hlen hm =>
      extractLsb'_of_selects h fun i hi => ⟨hm i hi, by
        rw [BitVec.getLsbD_append, if_pos (by omega), BitVec.getLsbD_zero]⟩
    exact ⟨hop, hzero 23 1 (by decide) (by decide), hzero 15 1 (by decide) (by decide),
      hzero 0 8 (by decide) (by decide)⟩
  · rintro ⟨rfl, h23, h15, hlow⟩
    have hw : formatNC (opField w) (chField w) (noteField w) (valField w) = w :=
      calc formatNC (opField w) (chField w) (noteField w) (valField w)
        _ = opField w ++ chField w ++ w.extractLsb' 23 1 ++ noteField w ++ w.extractLsb' 15 1 ++ valField w ++
            w.extractLsb' 0 8 := by rw [h23, h15, hlow]; rfl
        _ = w := message_fields w
    have := selects_message (opField w) (opField w) (chField w) (noteField w) (valField w)
    rwa [hw, beq_self_eq_true] at this

/-- The row of format B (30_encoding R107). -/
theorem selects_bend_iff {w : Word} :
    rowBend.selects w = true ↔ opField w = 0xE ∧ w.extractLsb' 14 10 = 0 := by
  constructor
  · intro h
    exact ⟨opField_of_selects (r := rowBend) rfl h, extractLsb'_of_selects h (by decide)⟩
  · rintro ⟨hop, hmid⟩
    have hw : formatB (chField w) (bendField w) = w :=
      calc formatB (chField w) (bendField w)
        _ = opField w ++ chField w ++ w.extractLsb' 14 10 ++ bendField w := by rw [hop, hmid]; rfl
        _ = w := bend_fields w
    rw [← hw]
    exact Laws.Selects.bend ..

/-! ## The words that select a row, and the reserved ones -/

/-- A word of format S with a strobe's `SUB` (30_encoding R102, R103). -/
def IsStrobe (w : Word) : Prop :=
  opField w = 0x0 ∧ (subField w = 0x01 ∨ subField w = 0x02 ∨ subField w = 0x03) ∧ w.extractLsb' 8 20 = 0

/-- A word of format N or C (30_encoding R105, R106). -/
def IsMessage (w : Word) : Prop :=
  (opField w = 0x8 ∨ opField w = 0x9 ∨ opField w = 0xB) ∧
    w.getLsbD 23 = false ∧ w.getLsbD 15 = false ∧ w.extractLsb' 0 8 = 0

/-- A word of format B (30_encoding R107). -/
def IsBend (w : Word) : Prop := opField w = 0xE ∧ w.extractLsb' 14 10 = 0

/-- Every format C row lies within CC.OTHER (30_encoding R111). -/
theorem ccOther_selects_of_controller {r : OpRow} (hr : r ∈ exactRows) (hop : opField r.pattern = 0xB) {w : Word}
    (h : r.selects w = true) : rowCcOther.selects w = true := by
  obtain ⟨q, -, rfl⟩ := controllerRow_of_opField r hr hop
  rw [← controller_of_mask (beq_iff_eq.mp h)]
  exact Laws.Selects.ccOther ..

theorem isStrobe_iff {w : Word} :
    IsStrobe w ↔ rowCtick.selects w = true ∨ rowAtick.selects w = true ∨ rowReset.selects w = true := by
  have hC : rowCtick.selects w = true ↔ _ := selects_strobe_iff (sub := 0x01)
  have hA : rowAtick.selects w = true ↔ _ := selects_strobe_iff (sub := 0x02)
  have hR : rowReset.selects w = true ↔ _ := selects_strobe_iff (sub := 0x03)
  rw [hC, hA, hR, ← and_or_left, ← and_or_left, ← or_and_right, ← or_and_right, IsStrobe]

theorem isMessage_iff {w : Word} :
    IsMessage w ↔ rowNoteOff.selects w = true ∨ rowNoteOn.selects w = true ∨ rowCcOther.selects w = true := by
  have hOff : rowNoteOff.selects w = true ↔ _ := selects_message_iff (p := 0x8)
  have hOn : rowNoteOn.selects w = true ↔ _ := selects_message_iff (p := 0x9)
  have hOther : rowCcOther.selects w = true ↔ _ := selects_message_iff (p := 0xB)
  rw [hOff, hOn, hOther, ← or_and_right, ← or_and_right, IsMessage]

/-- The rows that no other row contains. -/
def widestRows : List OpRow := [rowCtick, rowAtick, rowReset, rowNoteOff, rowNoteOn, rowCcOther, rowBend]

theorem mem_widestRows_or_controller : ∀ r ∈ rowCcOther :: exactRows,
    r ∈ widestRows ∨ (r ∈ exactRows ∧ opField r.pattern = 0xB) := by decide

theorem widestRows_subset : widestRows ⊆ rowCcOther :: exactRows := by decide

/-- A word selects a row exactly when its fixed fields are right for its `OP` (30_encoding R109). -/
theorem selects_row_iff {w : Word} :
    (∃ r ∈ rowCcOther :: exactRows, r.selects w = true) ↔ IsStrobe w ∨ IsMessage w ∨ IsBend w := by
  have hwidest : (∃ r ∈ widestRows, r.selects w = true) ↔ IsStrobe w ∨ IsMessage w ∨ IsBend w := by
    rw [isStrobe_iff, isMessage_iff, IsBend, ← selects_bend_iff]
    simp only [widestRows, List.exists_mem_cons_iff, List.not_mem_nil, false_and, exists_false, or_false, or_assoc]
  rw [← hwidest]
  constructor
  · rintro ⟨r, hr, hs⟩
    rcases mem_widestRows_or_controller r hr with hw | ⟨hexact, hop⟩
    · exact ⟨r, hw, hs⟩
    · exact ⟨rowCcOther, by decide, ccOther_selects_of_controller hexact hop hs⟩
  · rintro ⟨r, hr, hs⟩
    exact ⟨r, widestRows_subset hr, hs⟩

/-- A word is reserved exactly when it selects no row (30_encoding R112). -/
theorem decode_error_iff {w : Word} :
    (∃ why, decode w = .error why) ↔ ∀ r ∈ rowCcOther :: exactRows, r.selects w = false := by
  rw [List.forall_mem_cons]
  constructor
  · rintro ⟨why, h⟩
    rcases decode_cases w with ⟨e, -, -, hdec⟩ | ⟨hno, hdec⟩
    · exact nomatch hdec.symm.trans h
    · refine ⟨?_, hno⟩
      by_contra hs
      rw [hdec, decodeOther, if_pos (Bool.eq_true_of_not_eq_false hs)] at h
      exact nomatch h
  · rintro ⟨hOther, hno⟩
    exact ⟨reservedReason w, by rw [decode_of_no_exact hno, decodeOther, hOther, if_neg Bool.false_ne_true]⟩

/-- Of three exclusive kinds with a condition each none is met: no kind applies, or one does and its condition fails. -/
theorem not_or_and_iff {S M B s m b : Prop} (hSM : S → ¬M) (hSB : S → ¬B) (hMB : M → ¬B) :
    ¬ ((S ∧ s) ∨ (M ∧ m) ∨ (B ∧ b)) ↔ (¬ (S ∨ M ∨ B)) ∨ (S ∧ ¬s) ∨ (M ∧ ¬m) ∨ (B ∧ ¬b) := by
  tauto

/-- A word that selects no row is of one of the four sorts of 30_encoding R112, by its `OP`. -/
theorem not_selects_row_iff {w : Word} :
    ¬ (IsStrobe w ∨ IsMessage w ∨ IsBend w) ↔
      (¬ (opField w = 0x0 ∨ opField w = 0x8 ∨ opField w = 0x9 ∨ opField w = 0xB ∨ opField w = 0xE)) ∨
      (opField w = 0x0 ∧
        (¬ (subField w = 0x01 ∨ subField w = 0x02 ∨ subField w = 0x03) ∨ w.extractLsb' 8 20 ≠ 0)) ∨
      ((opField w = 0x8 ∨ opField w = 0x9 ∨ opField w = 0xB) ∧
        (w.getLsbD 23 = true ∨ w.getLsbD 15 = true ∨ w.extractLsb' 0 8 ≠ 0)) ∨
      (opField w = 0xE ∧ w.extractLsb' 14 10 ≠ 0) := by
  have hSM : opField w = 0x0 → ¬ (opField w = 0x8 ∨ opField w = 0x9 ∨ opField w = 0xB) := fun h => by rw [h]; decide
  have hSB : opField w = 0x0 → opField w ≠ 0xE := fun h => by rw [h]; decide
  have hMB : opField w = 0x8 ∨ opField w = 0x9 ∨ opField w = 0xB → opField w ≠ 0xE := by
    rintro (h | h | h) <;> rw [h] <;> decide
  rw [IsStrobe, IsMessage, IsBend, not_or_and_iff hSM hSB hMB]
  simp only [not_and_or, Bool.not_eq_false, or_assoc]

end Sys2Proof

namespace Sys2Proof.Machine

/-- The step at a presented reserved word (30_encoding R112). -/
theorem step_of_decode_error {s : State} {p : Presented} {rest : List Presented} {why : Reserved}
    (hcmd : s.cmd = p :: rest) (hdec : decode p.word = .error why) : step s = .refused (.reservedEncoding why) := by
  simp only [step, hcmd, hdec]

/-- Settles O3: the decoder's last branch is reached when no row selects the word; each row's mask and pattern, read
field by field, say which words those are; the step refuses with the decoder's reason. -/
theorem reservedWordsRefused : Obligations.ReservedWordsRefused := by
  refine ⟨fun w => decode_error_iff, fun w => ?_, fun s p rest why => step_of_decode_error⟩
  rw [decode_error_iff, ← not_selects_row_iff, ← selects_row_iff]
  simp only [not_exists, not_and, Bool.not_eq_true]

end Sys2Proof.Machine
end

section
/-! PROOFS. The encoding examples (30_encoding R117). -/

namespace Sys2Proof

/-- Settles O5, by running the decoder on each word. -/
theorem encodingExamples : Obligations.EncodingExamples := by
  unfold Obligations.EncodingExamples
  decide

end Sys2Proof
end

section
/-! PROOFS. Event words in `EVQ` (30_encoding R104, R108; 46_scheduler R316). -/

namespace Sys2Proof.Machine

variable (c : Config)

/-! ## The channel of an event -/

theorem dispatch_withChannel (ch : BitVec 4) (e : Event) : dispatch c (e.withChannel ch) = dispatch c e := by
  cases e <;> rfl

theorem dispatchAll_withChannel (ch : BitVec 4) (q : List Event) (b : Block) :
    dispatchAll c (q.map (Event.withChannel ch)) b = dispatchAll c q b := by
  simp only [dispatchAll, List.foldl_map, dispatch_withChannel]

/-- The budget of a poll reads no more of the queue than its length (46_scheduler R316). -/
theorem pollBudget_map (m : PerTick) (f : Event → Event) (q : List Event) :
    pollBudget m (q.map f) = pollBudget m q := by
  cases m with
  | count n => rfl
  | all => exact List.length_map f

theorem polled_map (f : Event → Event) (q : List Event) : polled c (q.map f) = (polled c q).map f := by
  rw [polled, pollBudget_map, ← List.map_take, polled]

/-- Settles O20: the poll takes as many words whatever their channels, and each is dispatched alike. -/
theorem channelIsIgnored : Obligations.ChannelIsIgnored := by
  intro s t ch h
  rw [ctick_next h, exec_ctick, polled_map, dispatchAll_withChannel, pollBudget_map, List.map_drop]

/-! ## The head of the queue -/

theorem pollBudget_cons_pos (e : Event) (q : List Event) : 0 < pollBudget (midiPerTick c) (e :: q) := by
  unfold midiPerTick
  split <;> exact Nat.succ_pos _

/-- With a word waiting, a control tick dispatches it, and after it the words that the rest of its budget allows. -/
theorem exec_ctick_cons {s : State} {e : Event} {q : List Event} (hq : s.evq = e :: q) {more : Nat}
    (hmore : pollBudget (midiPerTick Config.block) (e :: q) = more + 1) :
    exec .ctick s = .next { s with
      evq := q.drop more
      blk := afterEvents Config.block s.ports (dispatchAll Config.block (q.take more)
        (dispatch Config.block e (beforeEvents Config.block s.ports s.blk))) } := by
  rw [exec_ctick, polled, hq, hmore]
  rfl

/-- Settles O9: an event's command enqueues it; a poll's budget is positive, so a control tick pops the head; a reserved
word is refused. -/
theorem eventWordsWaitInEvq : Obligations.EventWordsWaitInEvq := by
  refine ⟨fun s ch x y z => ⟨exec_event (.noteOff ch x y) s, exec_event (.noteOn ch x y) s, exec_event (.ccMod ch x) s,
    exec_event (.ccPorta ch x) s, exec_event (.ccVol ch x) s, exec_event (.ccPbRange ch x) s,
    exec_event (.ccLearn ch x) s, exec_event (.ccOmni ch x) s, exec_event (.ccOther ch x y) s,
    exec_event (.bend ch z) s⟩, fun s e q hq => ?_, fun s t p rest why hcmd hdec hnext => ?_⟩
  · refine exec_ctick_cons hq ?_
    have hpos := pollBudget_cons_pos Config.block e q
    cases hm : midiPerTick Config.block with
    | count m =>
      rw [hm] at hpos
      exact (Nat.sub_add_cancel hpos).symm
    | all => rfl
  · exact nomatch (step_of_decode_error hcmd hdec).symm.trans hnext

end Sys2Proof.Machine
end

section
/-! PROOFS. The key scanner (40_key_scanner). -/

namespace Sys2Proof.Machine

/-! ## The latch (40_key_scanner R142) -/

theorem latch_false (a b c : Bool) : latch false a b c = (a && b && c) := Bool.false_or _

theorem latch_true (a b c : Bool) : latch true a b c = (a || b || c) := by
  cases a <;> simp [latch]

/-- A latch turns to the value `v` exactly when all three samples are `v`. -/
theorem latch_not_eq_iff (v a b c : Bool) : latch (!v) a b c = v ↔ a = v ∧ b = v ∧ c = v := by
  cases v
  · simp [latch_true, and_assoc]
  · simp [latch_false, and_assoc]

/-- Three equal samples set the latch to their value, whatever it was. -/
theorem latch_self (z v : Bool) : latch z v v v = v := by
  cases v <;> simp [latch]

/-- Settles O40: both halves are one fact about the value the latch turns to. -/
theorem latchTruthTable : Obligations.LatchTruthTable :=
  fun a b c => ⟨latch_not_eq_iff true a b c, latch_not_eq_iff false a b c⟩

/-! ## One scan (40_key_scanner R140 to R144) -/

theorem Key.scan_eq (x : Key) (sample : Bool) :
    x.scan sample = ⟨sample, x.a, x.b, x.nextZ sample, x.nextAvail sample⟩ := rfl

/-- A scan emits no edge exactly when what it latches is not what it found available. -/
theorem Key.edge_eq_none_iff (x : Key) (sample : Bool) : x.edge sample = none ↔ x.nextZ sample ≠ x.avail := by
  unfold Key.edge
  cases x.nextZ sample <;> cases x.avail <;> decide

/-- Availability after a scan, from the latch and the availability before it. -/
theorem Key.nextAvail_eq (x : Key) (sample : Bool) :
    x.nextAvail sample = if x.nextZ sample = true ∧ x.avail = true then false
      else if x.nextZ sample = false ∧ x.avail = false then true else x.avail := by
  rw [Key.nextAvail]
  simp only [← Key.edge_eq_rising_iff, ← Key.edge_eq_falling_iff]
  rcases x.edge sample with _ | _ | _ <;> rfl

/-- Key `k` has the identity of MIDI note `k` (41_voice_allocator R182). -/
theorem midiId_ofNat_val (k : Fin 13) : midiId (BitVec.ofNat 7 k.val) = keyId k := by
  revert k
  decide

/-- A falling edge of key `k` does what NOTEOFF of note `k` does, whatever its channel and velocity
(40_key_scanner R144). -/
theorem keyEdge_falling (c : Config) (k : Fin 13) (ch : BitVec 4) (vel : BitVec 7) (b : Block) :
    keyEdge c k (some .falling) b = dispatch c (.noteOff ch (BitVec.ofNat 7 k.val) vel) b := by
  rw [keyEdge, ← midiId_ofNat_val]
  rfl

/-- What a scan does, once its edge and the availability after it are known. -/
theorem keyScan_of_edge (c : Config) {b : Block} {k : Fin 13} {sample avail : Bool} {edge : Option Edge}
    (hedge : (b.key k).edge sample = edge) (havail : (b.key k).nextAvail sample = avail) :
    keyScan c k sample b =
      keyEdge c k edge (b.setKey k ⟨sample, (b.key k).a, (b.key k).b, (b.key k).nextZ sample, avail⟩) := by
  rw [keyScan, Key.scan_eq, hedge, havail]

/-- Settles O41: the latch and `avail` decide the edge, and the edge decides the rest. -/
theorem keyScanActsByItsEdge : Obligations.KeyScanActsByItsEdge := by
  intro c b k sample
  refine ⟨fun hz ha => ?_, fun hz ha => ?_, fun hne => ?_⟩
  · have he := ((b.key k).edge_eq_rising_iff sample).mpr ⟨hz, ha⟩
    exact ⟨he, keyScan_of_edge c he (by rw [Key.nextAvail, he])⟩
  · have he := ((b.key k).edge_eq_falling_iff sample).mpr ⟨hz, ha⟩
    exact ⟨he, (keyScan_of_edge c he (by rw [Key.nextAvail, he])).trans (keyEdge_falling c k 0 0 _)⟩
  · have he := ((b.key k).edge_eq_none_iff sample).mpr hne
    exact ⟨he, keyScan_of_edge c he (by rw [Key.nextAvail, he])⟩

/-! ## A control tick (46_scheduler R311) -/

/-- A whole control tick scans every key once, from the samples on the ports. -/
theorem ctick_key {s t : State} (h : exec .ctick s = .next t) (k : Fin 13) :
    t.blk.key k = (s.blk.key k).scan (s.ports.keyAt k) := by
  rw [ctick_next h, afterEvents_key, dispatchAll_key, beforeEvents_key]

/-- Settles O42: each key's registers after the tick are those of one scan. -/
theorem everyTickScansEveryKey : Obligations.EveryTickScansEveryKey := by
  intro s t h k
  have hscan : t.blk.keys[k] = (s.blk.key k).scan (s.ports.keyAt k) := ctick_key h k
  rw [hscan]
  exact ⟨rfl, rfl, rfl, rfl, Key.nextAvail_eq ..⟩

/-! ## Sample sequences (40_key_scanner R146, R149) -/

/-- A scan turns a key to `v` exactly when the three latest samples are all `v` (40_key_scanner R146). -/
theorem Key.nextZ_eq_iff {x : Key} {v : Bool} (h : x.z = !v) (sample : Bool) :
    x.nextZ sample = v ↔ sample = v ∧ x.a = v ∧ x.b = v := by
  rw [Key.nextZ, h, latch_not_eq_iff]

theorem threeInRow_cons_cons_cons (v x y z : Bool) (l : List Bool) :
    threeInRow v (x :: y :: z :: l) = false ↔
      ¬ (z = v ∧ y = v ∧ x = v) ∧ threeInRow v (y :: z :: l) = false := by
  simp only [threeInRow, ← Bool.not_eq_true, Bool.or_eq_true, Bool.and_eq_true, beq_iff_eq]
  tauto

/-- A run of `v` does not begin at another sample. -/
theorem threeInRow_not_cons (v : Bool) (l : List Bool) : threeInRow v ((!v) :: l) = threeInRow v l := by
  rcases l with _ | ⟨_, _ | ⟨_, _⟩⟩ <;> simp [threeInRow]

/-- A key not at `v` stays so over samples that, after the two latest of its history, hold no three `v` in a row. -/
theorem Key.scans_z_of_threeInRow_false {v : Bool} {l : List Bool} {x : Key} (hz : x.z = !v)
    (hl : threeInRow v (x.b :: x.a :: l) = false) : (x.scans l).z = !v := by
  induction l generalizing x with
  | nil => exact hz
  | cons sample l ih =>
    obtain ⟨hrun, hl⟩ := (threeInRow_cons_cons_cons ..).mp hl
    have hkeep : (x.scan sample).z = !v := Bool.eq_not.mpr (mt (Key.nextZ_eq_iff hz sample).mp hrun)
    exact ih hkeep hl

theorem Key.scans_append (x : Key) (l l' : List Bool) : x.scans (l ++ l') = (x.scans l).scans l' :=
  List.foldl_append

/-- Three samples in a row set any key (40_key_scanner R146). -/
theorem Key.scans_three_z (x : Key) (v : Bool) : (x.scans [v, v, v]).z = v :=
  latch_self ((x.scan v).scan v).z v

/-- Settles O44: an induction over the samples, with the two latest of the history put in front of them. -/
theorem hysteresisOverSequences : Obligations.HysteresisOverSequences := by
  refine ⟨fun x sample => ⟨fun hz => Key.nextZ_eq_iff hz sample, fun hz => Key.nextZ_eq_iff hz sample⟩,
    fun l hl => ?_, fun l hl => ?_, fun x l => ?_⟩
  · refine Key.scans_z_of_threeInRow_false (v := true) rfl ?_
    exact (threeInRow_not_cons true _).trans ((threeInRow_not_cons true l).trans hl)
  · refine Key.scans_z_of_threeInRow_false (v := false) rfl ?_
    exact (threeInRow_not_cons false _).trans ((threeInRow_not_cons false l).trans hl)
  · rw [Key.scans_append, Key.scans_append]
    exact ⟨Key.scans_three_z _ true, Key.scans_three_z _ false⟩

end Sys2Proof.Machine
end

section
/-! PROOFS. The voice allocator (41_voice_allocator). -/

namespace Sys2Proof.Machine

variable (c : Config)

/-! ## The note events (41_voice_allocator R170, R171, R178) -/

theorem dispatch_noteOff (ch : BitVec 4) (note vel : BitVec 7) (b : Block) :
    dispatch c (.noteOff ch note vel) b = noteOffId c (midiId note) b := rfl

theorem dispatch_noteOn_zero (ch : BitVec 4) (note : BitVec 7) (b : Block) :
    dispatch c (.noteOn ch note 0) b = noteOffId c (midiId note) b := by
  rw [dispatch, dispatchNoteOn, if_pos rfl]

theorem dispatch_noteOn {vel : BitVec 7} (h : vel ≠ 0) (ch : BitVec 4) (note : BitVec 7) (b : Block) :
    dispatch c (.noteOn ch note vel) b = allocate c (.midi note vel) b := if_neg h

/-- Settles O32: both run `NOTE_OFF` on the note's identity, and neither reads the channel. -/
theorem zeroVelocityIsNoteOff : Obligations.ZeroVelocityIsNoteOff :=
  fun c b ch ch' note vel => (dispatch_noteOn_zero c ch note b).trans (dispatch_noteOff c ch' note vel b).symm

/-! ## Allocation (41_voice_allocator R171 to R176) -/

/-- The general rule, read off the two identity slots (41_voice_allocator R173, R175). -/
theorem generalVoice_eq (b : Block) :
    generalVoice b =
      if b.voice1.noteId = 129 ∨ (b.mostRecentVoice = .two ∧ b.voice2.noteId ≠ 129) then .one else .two := by
  simp only [generalVoice, Block.occupied, Block.voice, noNote, Bool.or_eq_true, Bool.and_eq_true, Bool.not_eq_true',
    bne_eq_false_iff_eq, bne_iff_ne, beq_iff_eq]

theorem allocate_of_porta_off {b : Block} (h : b.portaOn = false) (src : Source) :
    allocate c src b = assign c (generalVoice b) src b := by
  simp [allocate, chooseVoice, h]

theorem allocate_midi_of_porta_on {b : Block} (h : b.portaOn = true) (note vel : BitVec 7) :
    allocate c (.midi note vel) b = assign c .two (.midi note vel) b := by
  simp [allocate, chooseVoice, h]

/-- While portamento is on a key's event is dropped (41_voice_allocator R172). -/
theorem keyNoteOn_of_porta_on {b : Block} (h : b.portaOn = true) (k : Fin 13) : keyNoteOn c k b = b := by
  simp [keyNoteOn, allocate, chooseVoice, h]

/-- An assignment reads no key's registers. -/
theorem assign_setKey (v : VoiceNo) (src : Source) (b : Block) (k : Fin 13) (x : Key) :
    assign c v src (b.setKey k x) = (assign c v src b).setKey k x := by
  cases h : b.portaOn
  · rw [assign_of_porta_off c h, assign_of_porta_off (b := b.setKey k x) c h]
    cases v <;> rfl
  · rw [assign_of_porta_on c h, assign_of_porta_on (b := b.setKey k x) c h]
    cases v <;> rfl

theorem allocate_setKey (src : Source) (b : Block) (k : Fin 13) (x : Key) :
    allocate c src (b.setKey k x) = (allocate c src b).setKey k x := by
  have hchoose : chooseVoice src (b.setKey k x) = chooseVoice src b := rfl
  unfold allocate
  rw [hchoose]
  cases chooseVoice src b with
  | some v => exact assign_setKey ..
  | none => rfl

/-- A scan with a rising edge is the key's note-on, and besides writes that key's registers (40_key_scanner R143). -/
theorem keyScan_rising {b : Block} {k : Fin 13} {sample : Bool} (h : (b.key k).edge sample = some .rising) :
    keyScan c k sample b = (keyNoteOn c k b).setKey k ((b.key k).scan sample) := by
  rw [keyScan, h]
  exact allocate_setKey ..

/-- Settles O29: with portamento off both sources reach `ASSIGN` on the voice of the general rule. -/
theorem noteTakesTheRuledVoice : Obligations.NoteTakesTheRuledVoice := by
  intro c b ch note vel k hoff v assigned keyed
  have hassign (src : Source) : allocate c src b = assigned src.noteId (src.freq c b.octave) (src.level c) := by
    rw [allocate_of_porta_off c hoff, assign_of_porta_off c hoff, generalVoice_eq]
    rfl
  have hkey : keyNoteOn c k b = keyed := hassign (.key k)
  refine ⟨fun hvel => ?_, hkey, fun sample hrise => ?_⟩
  · rw [dispatch_noteOn c hvel]
    exact hassign (.midi note vel)
  · rw [keyScan_rising c hrise, hkey]

/-- Settles O30: a note-on reaches `ASSIGN` on voice 2, whose frequency part starts the glide; a key's event stops at
the scan, which clears `avail` on a rising edge. -/
theorem portamentoForcesVoiceTwo : Obligations.PortamentoForcesVoiceTwo := by
  intro c b ch note vel k hon lvl
  refine ⟨fun hvel => ?_, keyNoteOn_of_porta_on c hon k, fun sample hrise => ⟨?_, ?_⟩⟩
  · rw [dispatch_noteOn c hvel, allocate_midi_of_porta_on c hon, assign_of_porta_on c hon]
    rfl
  · rw [keyScan_rising c hrise, keyNoteOn_of_porta_on c hon]
  · show (b.key k).nextAvail sample = false
    rw [Key.nextAvail, hrise]

/-! ## Release (41_voice_allocator R178 to R182) -/

/-- A voice after `NOTE_OFF(id)` on block `b`: emptied and in Release where it held `id` (41_voice_allocator R178). -/
def Voice.noteOff (id : BitVec 8) (b : Block) (x : Voice) : Voice :=
  if x.noteId = id then { x with noteId := noNote, env := enter c b x.env .release } else x

/-- A voice that `NOTE_OFF` has passed does not hold the identity, the sentinel being none. -/
theorem Voice.noteOff_noteId_ne {id : BitVec 8} (hid : id ≠ noNote) (b : Block) (x : Voice) :
    (x.noteOff c id b).noteId ≠ id := by
  unfold Voice.noteOff
  split
  · exact hid.symm
  · assumption

theorem releaseIf_eq (v : VoiceNo) (id : BitVec 8) (b : Block) :
    releaseIf c v id b = { b.setVoice v ((b.voice v).noteOff c id b) with
      mostRecentVoice := if (b.voice v).noteId = id then v.other else b.mostRecentVoice } := by
  obtain ⟨hid, h⟩ | ⟨hid, h⟩ := releaseIf_cases c v id b
  · rw [h, Voice.noteOff, if_pos hid, if_pos hid]
  · rw [h, Voice.noteOff, if_neg hid, if_neg hid, Block.setVoice_voice]

/-- `NOTE_OFF`, register by register: the release of voice 1 hides neither voice 2's identity nor the release time
(41_voice_allocator R179). -/
theorem noteOffId_eq (id : BitVec 8) (b : Block) :
    noteOffId c id b = { b with
      voice1 := b.voice1.noteOff c id b
      voice2 := b.voice2.noteOff c id b
      mostRecentVoice := if b.voice2.noteId = id then .one else if b.voice1.noteId = id then .two
        else b.mostRecentVoice } := by
  rw [noteOffId, releaseIf_eq, releaseIf_eq]
  rfl

theorem noteOffId_voice (id : BitVec 8) (b : Block) (v : VoiceNo) :
    (noteOffId c id b).voice v = (b.voice v).noteOff c id b := by
  rw [noteOffId_eq]
  cases v <;> rfl

/-- Settles O31: `NOTE_OFF` register by register, on the note's identity. -/
theorem noteOffReleasesEveryHolder : Obligations.NoteOffReleasesEveryHolder := by
  intro c b ch note vel id released
  rw [dispatch_noteOff, noteOffId_eq]
  rfl

theorem keyId_ne_noNote (k : Fin 13) : keyId k ≠ noNote := by
  revert k
  decide

/-- Settles O33: note `k` has key `k`'s identity, which is not the sentinel a released voice holds. -/
theorem keyAndNoteIdentitiesCollide : Obligations.KeyAndNoteIdentitiesCollide := by
  intro c b k sample ch note vel hk
  obtain rfl : note = BitVec.ofNat 7 k.val := by rw [← hk, BitVec.ofNat_toNat, BitVec.setWidth_eq]
  refine ⟨fun hfall => ?_, fun v => ?_⟩
  · rw [keyScan, hfall]
    exact keyEdge_falling ..
  · rw [dispatch_noteOff, midiId_ofNat_val, noteOffId_voice]
    exact Voice.noteOff_noteId_ne c (keyId_ne_noNote k) b _

end Sys2Proof.Machine
end

section
/-! PROOFS. The controllers that write a register (42_pitch_bend_portamento R203, R204, 44_lfo_filter R266,
45_audio_renderer R296). -/

namespace Sys2Proof.Machine

/-- Portamento is on exactly for a value that is not 0 (42_pitch_bend_portamento R203). -/
theorem dispatchCcPorta_eq (val : BitVec 7) (b : Block) :
    dispatchCcPorta val b = { b with portaOn := decide (val ≠ 0), portaMs := val.toNat * 1000 / 127 } := by
  have hon : (val != 0) = decide (val ≠ 0) := Bool.eq_iff_iff.mpr (by simp)
  rw [dispatchCcPorta, hon]
  rfl

@[simp] theorem rangeIndex_val (val : BitVec 7) : (rangeIndex val).val = min val.toNat 12 := rfl

/-- Settles O21: each controller runs its own update of the block. -/
theorem controllersWriteTheirRegisters : Obligations.ControllersWriteTheirRegisters := by
  intro c b ch val
  exact ⟨rfl, dispatchCcPorta_eq val b, rangeIndex_val val, rfl, rfl⟩

end Sys2Proof.Machine
end

section
/-! PROOFS. Pitch bend and portamento (42_pitch_bend_portamento). -/

namespace Sys2Proof.Machine

variable (c : Config)

/-! ## The bend (42_pitch_bend_portamento R200 to R202) -/

theorem retune_one (b : Block) :
    retune c .one b = { b with voice1 := { b.voice1 with oscFreq := freqRound c (b.voice1.baseFreq * b.ratio) } } := rfl

theorem retune_two (b : Block) :
    retune c .two b = { b with voice2 := { b.voice2 with oscFreq := freqRound c (b.voice2.baseFreq * b.ratio) } } := rfl

/-- Settles O25: the two retunes, after the value and its ratio are stored, read the new ratio. -/
theorem bendRetunesBothVoices : Obligations.BendRetunesBothVoices := by
  intro c b ch value x r
  show dispatchBend c value b = _
  rw [dispatchBend, retune_one, retune_two]
  rfl

theorem bendRatio_of_nonneg {bend : Int} (h : 0 ≤ bend) (k : Fin 13) :
    bendRatio c bend k = 1 + (bend / 8192 : Rat) * pbMax c k := by
  obtain rfl | hpos := h.eq_or_lt
  · simp [bendRatio]
  · rw [bendRatio, if_neg hpos.ne', if_pos hpos]

theorem bendRatio_of_nonpos {bend : Int} (h : bend ≤ 0) (k : Fin 13) :
    bendRatio c bend k = 1 + (bend / 8192 : Rat) * pbMin c k := by
  obtain rfl | hneg := h.eq_or_lt
  · simp [bendRatio]
  · rw [bendRatio, if_neg hneg.ne, if_neg hneg.not_gt]

@[simp] theorem bendRatio_zero (k : Fin 13) : bendRatio c 0 k = 1 := if_pos rfl

/-- The ratio is monotone on each side of bend 0, where both sides have the value 1 (42_pitch_bend_portamento R202). -/
theorem bendRatio_mono {x y : Int} (hxy : x ≤ y) (k : Fin 13) : bendRatio c x k ≤ bendRatio c y k := by
  have hmax := pbMax_nonneg c k
  have hmin := pbMin_nonneg c k
  obtain hx | hx := le_total 0 x
  · rw [bendRatio_of_nonneg c hx, bendRatio_of_nonneg c (hx.trans hxy)]
    gcongr
  · obtain hy | hy := le_total 0 y
    · have hx' : (x / 8192 : Rat) * pbMin c k ≤ 0 :=
        mul_nonpos_of_nonpos_of_nonneg (div_nonpos_of_nonpos_of_nonneg (Int.cast_nonpos.mpr hx) (by norm_num)) hmin
      have hy' : 0 ≤ (y / 8192 : Rat) * pbMax c k := by positivity
      rw [bendRatio_of_nonpos c hx, bendRatio_of_nonneg c hy]
      linarith
    · rw [bendRatio_of_nonpos c hx, bendRatio_of_nonpos c hy]
      gcongr

theorem toInt_le_8191 (v : BitVec 14) : v.toInt ≤ 8191 :=
  Int.le_of_lt_add_one v.toInt_lt

theorem bendRatio_8191 (k : Fin 13) : bendRatio c 8191 k = 1 + (8191 / 8192 : Rat) * pbMax c k :=
  bendRatio_of_nonneg c (by decide) k

theorem bendRatio_neg_8192 (k : Fin 13) : bendRatio c (-8192) k = 1 - pbMin c k := by
  rw [bendRatio_of_nonpos c (by decide)]
  push_cast
  ring

/-- Settles O26: the ratio is monotone, so its values at the two ends of the bend bound it. -/
theorem bendRatioRange : Obligations.BendRatioRange := by
  intro c k x y
  have hlow : -8192 ≤ x.toInt := neg_8192_le_sext x
  have htop : bendRatio c x.toInt k ≤ bendRatio c 8191 k := bendRatio_mono c (toInt_le_8191 x) k
  refine ⟨bendRatio_nonneg c hlow k, bendRatio_zero c k, fun hmax => ?_, fun hxy => bendRatio_mono c hxy k,
    bendRatio_8191 c k, htop, bendRatio_neg_8192 c k, bendRatio_mono c hlow k⟩
  rw [bendRatio_8191] at htop
  linarith

/-! ## The glide (42_pitch_bend_portamento R205 to R207) -/

/-- The block with its glide at tick `k`: counter, output and voice 2's oscillator (42_pitch_bend_portamento R206). -/
def glideAt (b : Block) (k : Nat) : Block :=
  { b with glideK := k, glideOut := glideValue c b k, voice2 := { b.voice2 with oscFreq := glideValue c b k } }

/-- A glide tick puts the glide at the next, saturated tick. -/
theorem glideTick_eq {b : Block} (h : b.glideK ≤ b.glideLen) :
    glideTick c b = glideAt c b (min (b.glideK + 1) b.glideLen) := by
  have hnext : glideNextK b = min (b.glideK + 1) b.glideLen := by
    unfold glideNextK
    split <;> omega
  rw [← hnext]
  rfl

/-- Glide ticks write only what the glide's position determines, so the last one alone decides the block. -/
theorem glideTick_iterate (n : Nat) {b : Block} (h : b.glideK ≤ b.glideLen) :
    (glideTick c)^[n + 1] b = glideAt c b (min (b.glideK + n + 1) b.glideLen) := by
  induction n with
  | zero => exact glideTick_eq c h
  | succ n ih =>
    have hk : min (min (b.glideK + n + 1) b.glideLen + 1) b.glideLen = min (b.glideK + (n + 1) + 1) b.glideLen := by
      omega
    rw [Function.iterate_succ_apply', ih, glideTick_eq c (Nat.min_le_right ..), ← hk]
    rfl

/-- The output at tick `k` of a glide to `f`: `f` once its length has elapsed, before that the ramp from the old
output (42_pitch_bend_portamento R205, R206). -/
theorem glideValue_glideStart (f : Freq) (b : Block) (k : Nat) :
    glideValue c (glideStart c f b) (min k (ticks c b.portaMs)) =
      if ticks c b.portaMs ≤ k then f
      else freqRound c (b.glideOut + (f - b.glideOut) * k / (ticks c b.portaMs : Rat)) := by
  split
  · rw [Nat.min_eq_right ‹_›]
    exact if_pos (le_refl _)
  · rw [Nat.min_eq_left (Nat.le_of_not_le ‹_›)]
    exact if_neg ‹_›

/-- Settles O27: the glide starts at tick 0, and `n + 1` ticks put it at tick `min (n + 1) len`. -/
theorem glideReachesItsTarget : Obligations.GlideReachesItsTarget := by
  intro c b f n len out
  have hout : glideValue c (glideStart c f b) (min (n + 1) len) = out := glideValue_glideStart c f b (n + 1)
  have hrun := glideTick_iterate c n (b := glideStart c f b) (Nat.zero_le _)
  rw [hrun, show (glideStart c f b).glideK = 0 from rfl, Nat.zero_add, ← hout]
  rfl

/-- With portamento on, step 6 of the tick leaves voice 2 at the glide's output (46_scheduler R311). -/
theorem glideStep_oscFreq_two {b : Block} (h : (glideStep c b).portaOn = true) :
    (glideStep c b).voice2.oscFreq = (glideStep c b).glideOut := by
  rw [(sameControls_glideStep c b).portaOn] at h
  rw [glideStep, if_pos h]
  rfl

theorem afterEvents_oscFreq_two {p : Ports} {b : Block} (h : (afterEvents c p b).portaOn = true) :
    (afterEvents c p b).voice2.oscFreq = (afterEvents c p b).glideOut := by
  rw [afterEvents, Block.commit_portaOn] at h
  rw [afterEvents, Block.commit_voice2, Block.commit_glideOut]
  exact glideStep_oscFreq_two c h

/-- Settles O28: the glide's step comes after the events, and the commit copies what it wrote. -/
theorem glideOverridesBendOnVoiceTwo : Obligations.GlideOverridesBendOnVoiceTwo := by
  intro s t h hon
  have hosc : t.blk.voice2.oscFreq = t.blk.glideOut := by
    rw [ctick_next h] at hon ⊢
    exact afterEvents_oscFreq_two _ hon
  rw [ctick_committed h]
  exact ⟨hosc, hosc⟩

end Sys2Proof.Machine
end

section
/-! PROOFS. The envelope generators (43_envelope). -/

namespace Sys2Proof.Machine

variable (c : Config)

theorem Block.withEnv_eq_setEnv (b : Block) (v : VoiceNo) (e : Env) : b.withEnv v e = b.setEnv v e := by
  cases v <;> rfl

/-- Settles O34: `enter` writes the table of R230. -/
theorem stageEntry : Obligations.StageEntry := by
  intro c b e s
  refine ⟨?_, rfl, rfl, rfl, rfl⟩
  cases s <;> rfl

/-! ## One tick of one envelope (43_envelope R235) -/

section Advance

variable {c} {b : Block} {e : Env}

theorem envAdvance_of_idle (hi : e.stage = .idle) : envAdvance c b e = e := if_pos hi

theorem envAdvance_of_last (hi : e.stage ≠ .idle) (hk : e.len ≤ e.k + 1) :
    envAdvance c b e = enter c b { e with level := e.target } e.stage.next :=
  (if_neg hi).trans (if_pos hk)

/-- The envelope at tick `k` of the ramp it is on. -/
def Env.rampAt (e : Env) (k : Nat) : Env := { e with k := k, level := rampLevel e.start e.target k e.len }

theorem envAdvance_of_within (hi : e.stage ≠ .idle) (hk : e.k + 1 < e.len) :
    envAdvance c b e = e.rampAt (e.k + 1) :=
  (if_neg hi).trans (if_neg (Nat.not_le.mpr hk))

end Advance

/-- Settles O35, a branch of `ENV_TICK` at a time. -/
theorem envTickWritesOneEnvelope : Obligations.EnvTickWritesOneEnvelope := by
  intro c b v e
  simp only [Block.withEnv_eq_setEnv]
  split
  · exact (congrArg (b.setEnv v) (envAdvance_of_idle ‹_›)).trans (Block.setVoice_voice b v)
  · split
    · exact congrArg (b.setEnv v) (envAdvance_of_last ‹_› ‹_›)
    · exact congrArg (b.setEnv v) (envAdvance_of_within ‹_› (Nat.not_le.mp ‹_›))

/-! ## The two envelopes (43_envelope R241 (f)) -/

/-- An envelope's tick reads no envelope but its own. -/
theorem envAdvance_setEnv (b : Block) (v : VoiceNo) (x : Env) : envAdvance c (b.setEnv v x) = envAdvance c b :=
  funext (envAdvance_congr c (Block.setEnv_attackMs b v x) (Block.setEnv_releaseMs b v x))

theorem envTick_voice_env (b : Block) (v : VoiceNo) : ((envTick c v b).voice v).env = envAdvance c b (b.voice v).env :=
  congrArg Voice.env (Block.voice_setEnv_same b v _)

theorem envTick_voice_ne (b : Block) {v w : VoiceNo} (h : w ≠ v) : (envTick c v b).voice w = b.voice w :=
  Block.voice_setEnv_ne b _ h

/-- The tick of the other voice before a voice's own makes no difference to the voice's envelope. -/
theorem envTick_envTick_voice_env (b : Block) {v w : VoiceNo} (h : w ≠ v) :
    ((envTick c w (envTick c v b)).voice w).env = ((envTick c w b).voice w).env := by
  rw [envTick_voice_env, envTick_voice_env, envTick_voice_ne c b h, envTick, envAdvance_setEnv]

theorem envTick_comm (b : Block) : envTick c .two (envTick c .one b) = envTick c .one (envTick c .two b) := by
  simp only [envTick, envAdvance_setEnv]
  rfl

/-- Settles O36: an envelope's tick reads the two durations and that envelope only. -/
theorem envelopesShareOnlyTheirTimes : Obligations.EnvelopesShareOnlyTheirTimes := by
  intro c b d v ha hr
  refine ⟨fun he => ?_, ?_, envTick_comm c b⟩
  · rw [envTick_voice_env, envTick_voice_env, he, envAdvance_congr c ha hr]
  · cases v with
    | one => rw [envTick_voice_ne c _ (by decide)]
    | two => exact envTick_envTick_voice_env c b (by decide)

/-! ## A whole stage (43_envelope R235, R237, R238) -/

section Stages

variable {c} {b : Block} {e : Env}

theorem envAdvance_iterate_of_idle (hi : e.stage = .idle) (n : Nat) : (envAdvance c b)^[n] e = e :=
  Function.iterate_fixed (envAdvance_of_idle hi) n

theorem envAdvance_iterate_within (hi : e.stage ≠ .idle) (n : Nat) (hk : e.k + n + 1 < e.len) :
    (envAdvance c b)^[n + 1] e = e.rampAt (e.k + n + 1) := by
  induction n with
  | zero => exact envAdvance_of_within hi hk
  | succ n ih =>
    rw [Function.iterate_succ_apply', ih (by omega)]
    exact envAdvance_of_within hi hk

/-- After the ticks its length still has, and after one where it has none, a stage is left at its target. -/
theorem envAdvance_iterate_last (hi : e.stage ≠ .idle) :
    (envAdvance c b)^[max 1 (e.len - e.k)] e = enter c b { e with level := e.target } e.stage.next := by
  rcases Nat.lt_or_ge (e.k + 1) e.len with hk | hk
  · obtain ⟨n, hn⟩ := Nat.exists_eq_add_of_lt hk
    have hleft : max 1 (e.len - e.k) = n + 1 + 1 := by omega
    rw [hleft, Function.iterate_succ_apply', envAdvance_iterate_within hi n (by omega)]
    exact envAdvance_of_last hi (by simp only [Env.rampAt]; omega)
  · have hleft : max 1 (e.len - e.k) = 1 := by omega
    rw [hleft]
    exact envAdvance_of_last hi hk

/-- From its entry a stage takes the ticks of its length, and one where that is 0. -/
theorem envAdvance_iterate_stage (hi : e.stage ≠ .idle) (h0 : e.k = 0) :
    (envAdvance c b)^[max 1 e.len] e = enter c b { e with level := e.target } e.stage.next := by
  have hrun := envAdvance_iterate_last (c := c) (b := b) hi
  rwa [h0, Nat.sub_zero] at hrun

end Stages

/-- Settles O37: the ticks of one voice advance its envelope alone, along its ramp and then out of the stage. -/
theorem stageRunsItsLength : Obligations.StageRunsItsLength := by
  intro c b v e
  simp only [envTick_iterate, Block.withEnv_eq_setEnv]
  refine ⟨fun hi n => ?_, fun hi h0 => ⟨fun n hn => ?_, ?_⟩⟩
  · rw [envAdvance_iterate_of_idle hi]
    exact Block.setVoice_voice b v
  · have hrun := envAdvance_iterate_within (c := c) (b := b) hi n (by omega)
    rw [hrun, h0, Nat.zero_add]
    rfl
  · exact congrArg (b.setEnv v) (envAdvance_iterate_stage hi h0)

/-- Settles O39: Sustain is left for Release and Release for Idle, each at its target; an envelope's ticks leave
`noteId` alone. -/
theorem sustainEndsOnItsOwn : Obligations.SustainEndsOnItsOwn := by
  intro c b v e left release hs
  have hsustain : (envAdvance c b)^[left] e = enter c b { e with level := e.target } .release := by
    have hrun := envAdvance_iterate_last (c := c) (b := b) (e := e) (by simp [hs])
    rwa [hs] at hrun
  have hrelease : (envAdvance c b)^[max 1 release + left] e =
      enter c b { enter c b { e with level := e.target } .release with level := 0 } .idle := by
    rw [Function.iterate_add_apply, hsustain]
    exact envAdvance_iterate_stage (e := enter c b { e with level := e.target } .release) Stage.noConfusion rfl
  simp only [envTick_iterate, Block.withEnv_eq_setEnv]
  rw [hsustain, hrelease, Block.voice_setEnv_same]
  exact ⟨rfl, rfl, rfl⟩

/-! ## The interpolation law (43_envelope R236) -/

section Ramp

variable {start target k len : Nat}

/-- How far a ramp of height `d` has come after `k` of `len` ticks is at most `d`. -/
theorem rampStep_le (d : Nat) (hk : k ≤ len) : d * k / len ≤ d :=
  Nat.div_le_of_le_mul (by rw [Nat.mul_comm len d]; exact Nat.mul_le_mul_left d hk)

theorem tdiv_of_rising (h : start ≤ target) :
    Int.tdiv (((target : Int) - start) * k) len = ((target - start) * k / len : Nat) := by
  rw [← Nat.cast_sub h, ← Nat.cast_mul, ← Int.ofNat_tdiv]

theorem tdiv_of_falling (h : target ≤ start) :
    Int.tdiv (((target : Int) - start) * k) len = -((start - target) * k / len : Nat) := by
  rw [← neg_sub, ← Nat.cast_sub h, neg_mul, Int.neg_tdiv, ← Nat.cast_mul, ← Int.ofNat_tdiv]

theorem rampLevel_of_rising (h : start ≤ target) :
    rampLevel start target k len = start + (target - start) * k / len := by
  rw [rampLevel, truncDiv, tdiv_of_rising h, ← Nat.cast_add, Int.toNat_natCast]

theorem rampLevel_of_falling (h : target ≤ start) :
    rampLevel start target k len = start - (start - target) * k / len := by
  rw [rampLevel, truncDiv, tdiv_of_falling h, ← sub_eq_add_neg, Int.toNat_sub]

/-- Within a stage the sum of the rule is not negative, so the level is the sum itself. -/
theorem rampLevel_cast (hk : k ≤ len) :
    (rampLevel start target k len : Int) = start + Int.tdiv (((target : Int) - start) * k) len := by
  rcases Nat.le_total start target with h | h
  · rw [rampLevel_of_rising h, tdiv_of_rising h, Nat.cast_add]
  · have := rampStep_le (start - target) hk
    rw [rampLevel_of_falling h, tdiv_of_falling h]
    omega

/-- A falling ramp is never below the straight line. -/
theorem line_le_rampLevel (h : target ≤ start) (hk : k ≤ len) :
    start * len ≤ rampLevel start target k len * len + (start - target) * k := by
  have hstep := rampStep_le (start - target) hk
  rw [rampLevel_of_falling h]
  calc start * len
      = (start - (start - target) * k / len) * len + (start - target) * k / len * len := by
        rw [← Nat.add_mul, Nat.sub_add_cancel (by omega)]
    _ ≤ _ := Nat.add_le_add_left (Nat.div_mul_le_self ..) _

/-- A rising ramp is never above the straight line. -/
theorem rampLevel_le_line (h : start ≤ target) :
    rampLevel start target k len * len ≤ start * len + (target - start) * k := by
  rw [rampLevel_of_rising h, Nat.add_mul]
  exact Nat.add_le_add_left (Nat.div_mul_le_self ..) _

/-- The product of the rule, for ends in 0..255. -/
theorem abs_rampProduct_le (hs : start ≤ 255) (ht : target ≤ 255) (hk : k ≤ len) :
    |((target : Int) - start) * k| ≤ 255 * len := by
  have hd : |(target : Int) - start| ≤ 255 := abs_le.mpr (by omega)
  rw [abs_mul, Nat.abs_cast]
  exact mul_le_mul hd (Nat.cast_le.mpr hk) (Nat.cast_nonneg k) (by decide)

end Ramp

/-- Settles O38: within a stage the tick's level is the ramp's, and `k + 1` is below the length. -/
theorem levelStaysBetweenItsEnds : Obligations.LevelStaysBetweenItsEnds := by
  intro c b v e hi hk l
  have hl : l = rampLevel e.start e.target (e.k + 1) e.len :=
    congrArg Env.level ((envTick_voice_env c b v).trans (envAdvance_of_within hi hk))
  have hle := Nat.le_of_lt hk
  obtain ⟨hlo, hhi⟩ := rampLevel_between (start := e.start) (target := e.target) hle
  rw [← Nat.cast_succ, hl]
  exact ⟨rampLevel_cast hle, hlo, hhi, fun h => line_le_rampLevel h hle, rampLevel_le_line,
    fun hs ht => ⟨hhi.trans (max_le hs ht), abs_le.mp (abs_rampProduct_le hs ht hle)⟩⟩

end Sys2Proof.Machine
end

section
/-! PROOFS. The LFO and the modulated cutoff (44_lfo_filter R260 to R263). -/

namespace Sys2Proof.Machine

/-- `shr` is the integers' `>>` on a natural number. -/
theorem shr_cast (a n : Nat) : (shr a n : Int) = Int.fdiv a (2 ^ n) := by
  rw [Int.fdiv_eq_ediv_of_nonneg _ (by positivity), shr]
  norm_cast

@[simp] theorem shr_zero (n : Nat) : shr 0 n = 0 := Nat.zero_div _

/-! ## The gain (44_lfo_filter R262) -/

variable (raw : BitVec 8) {depth : Nat}

/-- The shift `127 - raw` is never negative, so the natural number loses nothing. -/
theorem lfoUnsigned_cast : (lfoUnsigned raw : Int) = 127 - raw.toInt := by
  have hraw : raw.toInt ≤ 127 := BitVec.toInt_le
  exact Int.toNat_of_nonneg (sub_nonneg.mpr hraw)

theorem lfoGain_cast (depth : Nat) : (lfoGain raw depth : Int) = Int.fdiv ((127 - raw.toInt) * depth) (2 ^ 8) := by
  rw [lfoGain, shr_cast, Nat.cast_mul, lfoUnsigned_cast]

/-- The product `u * lfoDepth` is at most `255 * 256`. -/
theorem lfoGain_le (h : depth ≤ 256) : lfoGain raw depth ≤ 255 :=
  calc lfoUnsigned raw * depth / 256
      ≤ 255 * 256 / 256 := Nat.div_le_div_right (Nat.mul_le_mul (lfoUnsigned_le raw) h)
    _ = 255 := rfl

theorem lfoGain_depth_one : lfoGain raw 1 = 0 := by
  rw [lfoGain, Nat.mul_one]
  exact Nat.div_eq_of_lt (Nat.lt_succ_of_le (lfoUnsigned_le raw))

theorem lfoGain_depth_256 : lfoGain raw 256 = lfoUnsigned raw := Nat.mul_div_left _ (by decide)

variable {raw}

theorem lfoUnsigned_of_toInt {u : Nat} (h : 127 - raw.toInt = u) : lfoUnsigned raw = u :=
  Nat.cast_injective ((lfoUnsigned_cast raw).trans h)

/-- The positive extreme (44_lfo_filter R263). -/
theorem lfoGain_of_toInt_max (h : raw.toInt = 127) (depth : Nat) : lfoGain raw depth = 0 := by
  have hu : lfoUnsigned raw = 0 := lfoUnsigned_of_toInt (by rw [h]; rfl)
  rw [lfoGain, hu, Nat.zero_mul, shr_zero]

/-- The negative extreme at the greatest depth (44_lfo_filter R263). -/
theorem lfoGain_of_toInt_min (h : raw.toInt = -128) : lfoGain raw 256 = 255 := by
  rw [lfoGain_depth_256]
  exact lfoUnsigned_of_toInt (by rw [h]; rfl)

/-! ## The modulated cutoff (44_lfo_filter R262, R263) -/

section Cutoff

variable (base : Nat) {gain : Nat}

theorem shr_mul_gain_le (h : gain ≤ 255) : shr (base * gain) 8 ≤ base :=
  Nat.div_le_of_le_mul (by rw [Nat.mul_comm]; exact Nat.mul_le_mul_right base (by omega))

/-- The subtrahend is at most the base, so the difference of natural numbers is the integers'. -/
theorem modCutoff_cast (h : gain ≤ 255) :
    (modCutoff base gain : Int) = base - Int.fdiv (base * gain) (2 ^ 8) := by
  rw [modCutoff, Nat.cast_sub (shr_mul_gain_le base h), shr_cast, Nat.cast_mul]

@[simp] theorem modCutoff_zero : modCutoff base 0 = base := by
  rw [modCutoff, Nat.mul_zero, shr_zero, Nat.sub_zero]

/-- The greatest gain leaves the 256th part of the base, rounded up. -/
theorem modCutoff_255 : modCutoff base 255 = (base + 255) / 256 := by
  simp only [modCutoff, shr]
  omega

/-- A greater gain gives no greater cutoff. -/
theorem modCutoff_antitone : Antitone (modCutoff base) := fun _ _ h =>
  Nat.sub_le_sub_left (Nat.div_le_div_right (Nat.mul_le_mul_left base h)) base

theorem le_modCutoff (h : gain ≤ 255) : (base + 255) / 256 ≤ modCutoff base gain :=
  modCutoff_255 base ▸ modCutoff_antitone base h

end Cutoff

/-- Settles O23: the gain of a depth in its range is at most 255, where the cutoff is the rule's integer. -/
theorem lfoUpdateRecomputesCutoff : Obligations.LfoUpdateRecomputesCutoff := by
  intro c b hdepth r u gain b'
  have hgain : (lfoGain r.2 b.lfoDepth : Int) = gain := lfoGain_cast r.2 b.lfoDepth
  refine ⟨rfl, ?_⟩
  rw [← hgain]
  exact modCutoff_cast b.baseCutoff (lfoGain_le r.2 hdepth)

/-- Settles O24: the cutoff falls as the gain grows, and the gain is between 0 and 255. -/
theorem modulatedCutoffRange : Obligations.ModulatedCutoffRange := by
  intro base depth raw _ hdepth
  have hgain := lfoGain_le raw hdepth
  have base_of_zero : lfoGain raw depth = 0 → lfoGain raw depth = 0 ∧ modCutoff base (lfoGain raw depth) = base :=
    fun h0 => ⟨h0, by rw [h0, modCutoff_zero]⟩
  refine ⟨lfoGain_cast raw depth, hgain, le_modCutoff base hgain, modCutoff_le base _, fun h1 => ?_, fun hmax => ?_,
    fun h256 hmin => ?_⟩
  · exact base_of_zero (h1 ▸ lfoGain_depth_one raw)
  · exact base_of_zero (lfoGain_of_toInt_max hmax depth)
  · have h255 : lfoGain raw depth = 255 := h256 ▸ lfoGain_of_toInt_min hmin
    exact ⟨h255, h255 ▸ modCutoff_255 base⟩

end Sys2Proof.Machine
end

section
/-! PROOFS. The audio renderer (45_audio_renderer). -/

namespace Sys2Proof.Machine

/-! ## A voice's gain (45_audio_renderer R292) -/

theorem volume_mul_level_le (volume : BitVec 7) {level : Nat} (h : level ≤ 255) :
    volume.toNat * level ≤ 32385 :=
  calc volume.toNat * level ≤ 127 * 255 := Nat.mul_le_mul (Nat.le_of_lt_succ volume.isLt) h
    _ = 32385 := rfl

theorem voiceGain_le (volume : BitVec 7) {level : Nat} (h : level ≤ 255) : voiceGain volume level ≤ 126 :=
  calc volume.toNat * level / 256 ≤ 32385 / 256 := Nat.div_le_div_right (volume_mul_level_le volume h)
    _ = 126 := rfl

theorem voiceGain_eq_zero {volume : BitVec 7} {level : Nat} (h : volume.toNat * level < 256) :
    voiceGain volume level = 0 := Nat.div_eq_of_lt h

@[simp] theorem voiceGain_volume_zero (level : Nat) : voiceGain 0 level = 0 :=
  voiceGain_eq_zero (by simp)

@[simp] theorem voiceGain_level_zero (volume : BitVec 7) : voiceGain volume 0 = 0 :=
  voiceGain_eq_zero (by simp)

/-- Settles O47: the product of the two ranges bounds the gain, and a product below 256 is shifted out. -/
theorem voiceGainRange : Obligations.VoiceGainRange := by
  intro volume level h
  exact ⟨volume_mul_level_le volume h, voiceGain_le volume h, rfl, fun h0 => h0 ▸ voiceGain_volume_zero level,
    voiceGain_level_zero volume, voiceGain_eq_zero⟩

/-! ## A silent audio tick (45_audio_renderer R298) -/

theorem mixOut_of_gains {c : Config} {b : Block} (h : ∀ v, voiceGain b.committed.volume (b.committed.level v) = 0) :
    mixOut c b = 0 := by
  rw [mixOut, voiceSample_of_gain (h .one), voiceSample_of_gain (h .two), asr, add_zero, Int.zero_ediv]

theorem outFits_zero (c : Config) : outFits c 0 = true := by
  have hpos : (0 : Int) < 2 ^ (outBits c - 1) := by positivity
  rw [outFits_iff]
  omega

/-- Settles O46: both gains are 0, so the sample is 0, which fits every width. -/
theorem silentAudioTickCompletes : Obligations.SilentAudioTickCompletes := by
  intro s h₁ h₂
  have hmix : mixOut Config.block s.blk = 0 := mixOut_of_gains fun
    | .one => voiceGain_eq_zero h₁
    | .two => voiceGain_eq_zero h₂
  rw [exec_atick_of_fits (hmix ▸ outFits_zero Config.block), hmix]

/-! ## The output range (45_audio_renderer R297) -/

theorem abs_sext_le {n : Nat} (v : BitVec n) : |sext v| ≤ 2 ^ (n - 1) :=
  abs_le.mpr ⟨BitVec.le_toInt v, Int.le_of_lt BitVec.toInt_lt⟩

/-- The filtered sample's range times the greatest gain. -/
theorem abs_voiceSample_le (c : Config) (sh : Shared) (v : VoiceNo) (x : Voice) (h : sh.level v ≤ 255) :
    |voiceSample c sh v x| ≤ 2 ^ (filtBits c - 1) * 126 := by
  rw [voiceSample, abs_mul, Nat.abs_cast]
  have hgain : (voiceGain sh.volume (sh.level v) : Int) ≤ 126 := mod_cast voiceGain_le sh.volume h
  exact mul_le_mul (abs_sext_le _) hgain (Int.natCast_nonneg _) (by positivity)

/-- The sum of the two gained samples that `mixOut` shifts (45_audio_renderer R293). -/
theorem abs_mixSum_le (c : Config) {b : Block} (h₁ : b.committed.level1 ≤ 255) (h₂ : b.committed.level2 ≤ 255) :
    |voiceSample c b.committed .one b.voice1 + voiceSample c b.committed .two b.voice2|
      ≤ 252 * 2 ^ (filtBits c - 1) := by
  have hone := abs_voiceSample_le c b.committed .one b.voice1 h₁
  have htwo := abs_voiceSample_le c b.committed .two b.voice2 h₂
  have hadd := abs_add_le (voiceSample c b.committed .one b.voice1) (voiceSample c b.committed .two b.voice2)
  linarith

/-- What the shift brings within `OUT_BITS`. -/
theorem outFits_asr {c : Config} {a : Int} {n : Nat} (h : |a| < 2 ^ (outBits c - 1) * 2 ^ n) :
    outFits c (asr a n) = true := by
  obtain ⟨hlow, hhigh⟩ := abs_lt.mp h
  have hpos : (0 : Int) < 2 ^ n := by positivity
  refine (outFits_iff c _).mpr ⟨?_, Int.le_sub_one_of_lt ?_⟩
  · exact (Int.le_ediv_iff_mul_le hpos).mpr (by rw [neg_mul]; exact hlow.le)
  · exact (Int.ediv_lt_iff_lt_mul hpos).mpr hhigh

/-- R297's inequality, as the widths are used: 252 is below `2^8`. -/
theorem mixSum_bound_lt {c : Config} (h : filtBits c + 8 ≤ outBits c + c.outShift) :
    (252 * 2 ^ (filtBits c - 1) : Int) < 2 ^ (outBits c - 1) * 2 ^ c.outShift :=
  calc (252 * 2 ^ (filtBits c - 1) : Int)
    _ < 2 ^ 8 * 2 ^ (filtBits c - 1) := mul_lt_mul_of_pos_right (by norm_num) (by positivity)
    _ = 2 ^ (8 + (filtBits c - 1)) := (pow_add ..).symm
    _ ≤ 2 ^ (outBits c - 1 + c.outShift) := pow_le_pow_right₀ (by norm_num) (by
        simp only [filtBits, outBits] at h ⊢
        omega)
    _ = 2 ^ (outBits c - 1) * 2 ^ c.outShift := pow_add ..

/-- Settles O48: each gained sample is at most 126 times the filter's range, and the shift divides their sum into
`OUT_BITS`. -/
theorem wideOutputNeverOverflows : Obligations.WideOutputNeverOverflows := by
  intro c b h₁ h₂
  have hsum := abs_mixSum_le c h₁ h₂
  exact ⟨hsum, fun hwide => outFits_asr (hsum.trans_lt (mixSum_bound_lt hwide))⟩

/-! ## The audio tick (45_audio_renderer R290, R293) -/

/-- The shift rounds down, as `>>` of 00_scope R13. -/
theorem asr_eq_fdiv (a : Int) (n : Nat) : asr a n = Int.fdiv a (2 ^ n) :=
  (Int.fdiv_eq_ediv_of_nonneg a (by positivity)).symm

/-- Settles O45: the two outcomes of ATICK, by whether the sample fits, with the renderer's operations written out. -/
theorem audioTickRendersCommittedCopy : Obligations.AudioTickRendersCommittedCopy := by
  intro s c b sh o₁ o₂ y₁ y₂ p₁ p₂ out
  have hmix : mixOut Config.block s.blk = out := asr_eq_fdiv (p₁ + p₂) c.outShift
  have hfits := outFits_iff Config.block (mixOut Config.block s.blk)
  rw [hmix] at hfits
  split
  next hin =>
    rw [exec_atick_of_fits (hmix ▸ hfits.mpr hin), hmix]
    rfl
  next hout => exact exec_atick_of_not_fits (hmix ▸ mt hfits.mp hout)

end Sys2Proof.Machine
end

section
/-! PROOFS. Every command is accepted (60_exceptions R350, R360, R364). -/

namespace Sys2Proof.Machine

/-- ATICK's one alternative to a next state is the refusal of its sample (45_audio_renderer R297). -/
theorem exec_atick_outcome (s : State) :
    (∃ t, exec .atick s = .next t) ∨ exec .atick s = .refused .outputOutOfRange := by
  by_cases hf : outFits Config.block (mixOut Config.block s.blk) = true
  · exact .inl ⟨_, exec_atick_of_fits hf⟩
  · exact .inr (exec_atick_of_not_fits hf)

theorem exec_accepts {i : Instr} (hi : i ≠ .atick) (s : State) : ∃ t, exec i s = .next t := by
  obtain rfl | rfl | rfl | ⟨e, rfl⟩ := instr_cases i
  · exact ⟨_, exec_ctick s⟩
  · exact absurd rfl hi
  · exact ⟨_, exec_reset s⟩
  · exact ⟨_, exec_event e s⟩

/-- Settles O8: a strobe or an event other than ATICK has its next state outright, and ATICK has its two outcomes. -/
theorem everyCommandIsAccepted : Obligations.EveryCommandIsAccepted :=
  fun _ s => ⟨fun hi => exec_accepts hi s, exec_atick_outcome s⟩

end Sys2Proof.Machine
end

section
/-! PROOFS. The event poll and the control tick's steps (46_scheduler R311, R316, R317, R332 to R334). -/

namespace Sys2Proof.Machine

variable (c : Config)

/-! ## The event poll -/

/-- `MIDI_PER_TICK` is positive where it is a number (46_scheduler R316). -/
theorem midiPerTick_pos {m : Nat} (h : midiPerTick c = .count m) : 0 < m := by
  unfold midiPerTick at h
  split at h
  · rw [← PerTick.count.inj h]
    exact Nat.succ_pos _
  · exact nomatch h

/-- Settles O10: the poll takes as many words as its budget says, the whole queue with `ALL`. -/
theorem eventPollFollowsMidiPerTick : Obligations.EventPollFollowsMidiPerTick := by
  intro c q b
  refine ⟨fun m hm => ⟨midiPerTick_pos c hm, ?_⟩, fun hall => ?_⟩
  · rw [eventPoll_eq, polled, hm]
    rfl
  · rw [eventPoll_eq, polled, hall, pollBudget, List.drop_length, List.take_length]
    rfl

/-- With `MIDI_PER_TICK = 1`, a control tick dispatches the head of the queue at its third step and leaves the rest. -/
theorem controlTick_cons_of_one {c : Config} (h : midiPerTick c = .count 1) (p : Ports) (e : Event) (q : List Event)
    (b : Block) : controlTick c p (e :: q) b = (q, afterEvents c p (dispatch c e (beforeEvents c p b))) := by
  rw [controlTick, eventPoll_one c h]
  rfl

/-- Settles O11, by induction over the words, each at the head of the queue when its own tick begins. -/
theorem nthWordDispatchedByNthTick : Obligations.NthWordDispatchedByNthTick := by
  intro c h l rest b
  induction l generalizing b with
  | nil => rfl
  | cons x l ih =>
    rw [List.map_cons, List.cons_append, List.foldl_cons, controlTick_cons_of_one h, ih, List.foldl_cons]

/-! ## The seven steps -/

/-- Settles O12: the equation of CTICK, with the poll's budget and every step written out. -/
theorem controlTickRunsSevenSteps : Obligations.ControlTickRunsSevenSteps := fun s => exec_ctick s

/-- The poll of parameter `i` (46_scheduler R313). -/
theorem paramPoll_of_idx {i : Fin 8} (p : Ports) {b : Block} (h : b.idx = i) :
    paramPoll c p b = { setParam i (mapParam c b.idx p.adc[b.idx]) b with idx := nextIdx i } := by
  subst h
  rfl

/-- Settles O13: for each index, the register that `setParam` writes. -/
theorem pollWritesSelectedParameter : Obligations.PollWritesSelectedParameter := fun c p _ =>
  ⟨paramPoll_of_idx c p, paramPoll_of_idx c p, paramPoll_of_idx c p, paramPoll_of_idx c p, paramPoll_of_idx c p,
    paramPoll_of_idx c p, paramPoll_of_idx c p, paramPoll_of_idx c p⟩

/-! ## The controllers with no effect -/

/-- Words that each leave every block as it is leave it so together. -/
theorem dispatchAll_of_noEffect {q : List Event} (h : ∀ e ∈ q, ∀ d, dispatch c e d = d) (b : Block) :
    dispatchAll c q b = b :=
  dispatchAll_induction c (P := fun d => d = b) q rfl fun e he d hd => (h e he d).trans hd

/-- Settles O22: what such words leave at the third step is the block that an empty queue leaves there. -/
theorem noEffectControllers : Obligations.NoEffectControllers := by
  refine ⟨fun _ _ _ _ _ => ⟨rfl, rfl, rfl⟩, fun s hq => ⟨_, _, exec_ctick s, exec_ctick _, ?_, ?_⟩⟩
  · have hnone : ∀ e ∈ polled Config.block s.evq, ∀ d, dispatch Config.block e d = d := by
      intro e he d
      obtain ⟨_, _, _, rfl | rfl | rfl⟩ := hq e he <;> rfl
    rw [dispatchAll_of_noEffect _ hnone, polled_nil, dispatchAll_nil]
  · exact (List.take_append_drop _ _).symm

end Sys2Proof.Machine
end

section
/-! PROOFS. The parameter mapper (46_scheduler R320, R322). -/

namespace Sys2Proof.Machine

variable (c : Config)

/-! ## The range of the map -/

theorem clamp_of_mem {x lo hi : Int} (hlo : lo ≤ x) (hhi : x ≤ hi) : clamp x lo hi = x := by
  rw [clamp, max_eq_left hlo, min_eq_left hhi]

/-- A channel's samples are the input domain: the clamp leaves each as it is. -/
theorem clamp_input (i : Fin 8) (x : BitVec 10) : clamp (x.toNat : Int) (inLo i) (inHi i) = x.toNat :=
  clamp_of_mem (Int.natCast_nonneg _) (show (x.toNat : Int) ≤ 1023 by omega)

/-- The default map with its clamp and its rounding written out (46_scheduler R320). -/
theorem defaultMap_eq_fdiv (i : Fin 8) (x : BitVec 10) :
    defaultMap c i x = outLo c i
      + Int.fdiv ((clamp x.toNat (inLo i) (inHi i) - inLo i) * (outHi c i - outLo c i)) (inHi i - inLo i) := by
  rw [Int.fdiv_eq_ediv_of_nonneg _ (show 0 ≤ inHi i - inLo i by simp [inHi, inLo])]
  rfl

/-- Where the range is not degenerate, the default map reaches its top at the top input only (46_scheduler R320): an
input below it is at least one part in 1023 short of the span. -/
theorem defaultMap_eq_outHi_iff {i : Fin 8} (h : outLo c i < outHi c i) (x : BitVec 10) :
    defaultMap c i x = outHi c i ↔ (x.toNat : Int) = 1023 := by
  rw [defaultMap_eq]
  generalize hd : outHi c i - outLo c i = d
  constructor
  · intro htop
    have hquot : (x.toNat : Int) * d / 1023 = d := by omega
    have hprod : d * 1023 ≤ (x.toNat : Int) * d := (Int.le_ediv_iff_mul_le (by decide)).mp hquot.ge
    have hmax : (1023 : Int) ≤ x.toNat := le_of_mul_le_mul_left (by rwa [mul_comm d x.toNat]) (show 0 < d by omega)
    omega
  · intro hx
    rw [hx, Int.mul_ediv_cancel_left _ (by decide)]
    omega

/-- A map of the model's own into the declared range is used as it is (46_scheduler R320). -/
theorem mapParam_of_own {i : Fin 8} {f : BitVec 10 → Int} (h : c.mapOwn i = some f)
    (hf : ∀ y, outLo c i ≤ f y ∧ f y ≤ outHi c i) (x : BitVec 10) : mapParam c i x = f x := by
  rw [mapParam, h]
  exact clamp_of_mem (hf x).1 (hf x).2

/-- Settles O16, clause by clause. -/
theorem mapperIsLinearInRange : Obligations.MapperIsLinearInRange := by
  intro c i x x'
  have hx' : x' = x.toNat := clamp_input i x
  have hdefault := defaultMap_range c i x
  have hmap := mapParam_range c i x
  refine ⟨defaultMap_eq_fdiv c i x, hdefault.1, hdefault.2, fun h => ?_, fun h => mapParam_of_default c h x,
    fun _ h hf => mapParam_of_own c h hf x, hmap.1, hmap.2⟩
  rw [hx']
  exact defaultMap_eq_outHi_iff c h x

/-! ## The bands of the default map (46_scheduler R322) -/

/-- The bands of a range of four values from `lo` on: a third of the input domain each, and the last value at the top
input only. -/
theorem defaultMap_four_values {i : Fin 8} {lo : Int} (hlo : outLo c i = lo) (hhi : outHi c i = lo + 3)
    (x : BitVec 10) :
    defaultMap c i x = if x.toNat ≤ 340 then lo else if x.toNat ≤ 681 then lo + 1
      else if x.toNat ≤ 1022 then lo + 2 else lo + 3 := by
  have hx := x.isLt
  rw [defaultMap_eq, hlo, hhi, add_sub_cancel_left]
  split_ifs <;> omega

/-- Settles O17: waveform, LFO waveform and octave have ranges of four values, and the LFO depth a span of 255. -/
theorem defaultMapBands : Obligations.DefaultMapBands := by
  intro c x
  refine ⟨defaultMap_four_values c rfl rfl x, defaultMap_four_values c rfl rfl x, defaultMap_four_values c rfl rfl x,
    ?_⟩
  rw [defaultMap_eq, mul_comm]
  rfl

end Sys2Proof.Machine
end

section
/-! PROOFS. Runs of control ticks: the round robin and the queue (46_scheduler R313 to R316, R387). -/

namespace Sys2Proof.Machine

/-! ## A run of presented control ticks -/

/-- `ControlTicks ps s t`: presented one after another with the port values `ps`, control ticks take `s` to `t`. -/
inductive ControlTicks : List Ports → State → State → Prop where
  | nil (s : State) : ControlTicks [] s s
  | cons {p : Ports} {ps : List Ports} {rest : List Presented} {s u t : State}
      (tick : exec .ctick (s.present ⟨0x00000001, p⟩ rest) = .next u) (run : ControlTicks ps u t) :
      ControlTicks (p :: ps) s t

/-- A control tick takes no command: the ones that follow it stay. -/
theorem ctick_cmd {s t : State} (h : exec .ctick s = .next t) : t.cmd = s.cmd := by
  rw [ctick_next h]

/-- A run over presented control ticks completes, and is as many control ticks. -/
theorem controlTicks_run {ps : List Ports} {s : State} (hcmd : s.cmd = ps.map (fun p => ⟨0x00000001, p⟩)) :
    ∃ t, core.run ps.length s = .next t ∧ t.cmd = [] ∧ ControlTicks ps s t := by
  induction ps generalizing s with
  | nil => exact ⟨s, rfl, hcmd, .nil s⟩
  | cons p ps ih =>
    have hstep := step_of_decode_ok hcmd (show decode 0x00000001 = .ok .ctick by decide)
    obtain ⟨u, htick⟩ := exec_accepts (i := .ctick) nofun
      (s.present ⟨0x00000001, p⟩ (ps.map (fun p => ⟨0x00000001, p⟩)))
    obtain ⟨t, hrun, hend, hticks⟩ := ih (ctick_cmd htick)
    exact ⟨t, (core_run_succ (hstep.trans htick) _).trans hrun, hend, .cons htick hticks⟩

/-! ## The queue -/

theorem ctick_evq {s t : State} (h : exec .ctick s = .next t) :
    t.evq = s.evq.drop (pollBudget (midiPerTick Config.block) s.evq) := by
  rw [ctick_next h]

/-- The words that `n + 1` control ticks pop are those of the first tick and those that `n` ticks pop from the rest. -/
theorem poppedBy_succ (m : PerTick) (n : Nat) (q : List Event) :
    poppedBy m (n + 1) q = pollBudget m q + poppedBy m n (q.drop (pollBudget m q)) := by
  cases m with
  | count k =>
    rw [poppedBy, poppedBy, pollBudget]
    ring
  | all => simp [poppedBy, pollBudget]

theorem ControlTicks.evq {ps : List Ports} {s t : State} (h : ControlTicks ps s t) :
    t.evq = s.evq.drop (poppedBy (midiPerTick Config.block) ps.length s.evq) := by
  induction h with
  | nil s => cases hm : midiPerTick Config.block <;> simp [poppedBy]
  | cons tick _ ih =>
    rw [ih, ctick_evq tick, List.drop_drop, List.length_cons, poppedBy_succ]
    rfl

/-! ## The index -/

theorem ctick_idx_val {s t : State} (h : exec .ctick s = .next t) : t.blk.idx.val = (s.blk.idx.val + 1) % 8 :=
  congrArg Fin.val (ctick_idx h)

theorem ControlTicks.idx {ps : List Ports} {s t : State} (h : ControlTicks ps s t) :
    t.blk.idx.val = (s.blk.idx.val + ps.length) % 8 := by
  induction h with
  | nil s => exact (Nat.mod_eq_of_lt s.blk.idx.isLt).symm
  | cons tick _ ih =>
    have hidx := ctick_idx_val tick
    rw [State.present_blk] at hidx
    rw [ih, List.length_cons]
    omega

/-- Settles O14, by induction over the ticks of the run. -/
theorem roundRobinOverControlTicks : Obligations.RoundRobinOverControlTicks := by
  intro s ps hcmd
  obtain ⟨t, hrun, hend, hticks⟩ := controlTicks_run hcmd
  exact ⟨t, hrun, hend, hticks.idx, hticks.evq⟩

/-! ## The parameter registers -/

/-- No word of `q` writes parameter `i`: only the LFO depth has a controller, CC.MOD (44_lfo_filter R266). -/
def NoWordWrites (i : Fin 8) (q : List Event) : Prop := i = 7 → ∀ ch val, Event.ccMod ch val ∉ q

/-- The words that a run dispatches are those of its first tick and those of the rest of the run. -/
theorem NoWordWrites.of_succ {i : Fin 8} {m : PerTick} {n : Nat} {q : List Event}
    (h : NoWordWrites i (q.take (poppedBy m (n + 1) q))) :
    NoWordWrites i (q.take (pollBudget m q)) ∧
      NoWordWrites i ((q.drop (pollBudget m q)).take (poppedBy m n (q.drop (pollBudget m q)))) := by
  rw [poppedBy_succ, List.take_add] at h
  exact ⟨fun hi ch val he => h hi ch val (List.mem_append_left _ he),
    fun hi ch val he => h hi ch val (List.mem_append_right _ he)⟩

theorem ControlsWrittenBy.param {i j : Fin 8} {q : List Event} {b d : Block} (h : ControlsWrittenBy j q b d)
    (hij : j ≠ i) (hq : NoWordWrites i q) : d.param i = b.param i := by
  fin_cases i
  · exact congrArg Nat.cast (h.baseCutoff hij)
  · exact congrArg Nat.cast (h.waveSel hij)
  · exact congrArg Nat.cast (h.octave hij)
  · exact congrArg Nat.cast (h.attackMs hij)
  · exact congrArg Nat.cast (h.releaseMs hij)
  · exact congrArg Nat.cast (h.lfoWave hij)
  · exact h.lfoSpeed hij
  · exact congrArg Nat.cast (h.lfoDepth hij (hq rfl))

/-- A written parameter reads back: only the LFO speed may be negative (46_scheduler R321). -/
theorem param_setParam {i : Fin 8} {m : Int} (h : i ≠ 6 → 0 ≤ m) (b : Block) : (setParam i m b).param i = m := by
  fin_cases i
  rotate_left 6
  · rfl
  all_goals exact Int.toNat_of_nonneg (h (by decide))

theorem paramPoll_param (c : Config) (p : Ports) (b : Block) :
    (paramPoll c p b).param b.idx = mapParam c b.idx (p.adcAt b.idx) :=
  param_setParam (fun hi => (outLo_nonneg c _ hi).trans (mapParam_range c _ _).1) b

/-- After its poll, a control tick writes what its words write: no register is written because of an index `j`. -/
theorem ctick_writtenBy_words {s t : State} (h : exec .ctick s = .next t) (j : Fin 8) :
    ControlsWrittenBy j (polled Config.block s.evq) (paramPoll Config.block s.ports s.blk) t.blk := by
  rw [ctick_next h]
  exact (lfoCutoffUpdate_writtenBy _ _).trans <|
    (dispatchAll_writtenBy _ _ _).trans (afterEvents_writtenBy _ s.ports _)

/-- The control tick loads the parameter that its index selects (46_scheduler R313). -/
theorem ctick_param {s t : State} (h : exec .ctick s = .next t)
    (hq : NoWordWrites s.blk.idx (polled Config.block s.evq)) :
    t.blk.param s.blk.idx = mapParam Config.block s.blk.idx (s.ports.adcAt s.blk.idx) :=
  ((ctick_writtenBy_words h (s.blk.idx + 1)).param (by simp) hq).trans (paramPoll_param _ _ _)

/-- Ticks that do not poll a parameter, nor dispatch a word that writes it, keep it. -/
theorem ControlTicks.param_of_unpolled {i : Fin 8} {ps : List Ports} {s t : State} (h : ControlTicks ps s t)
    (hi : ∀ k < ps.length, (s.blk.idx.val + k) % 8 ≠ i.val)
    (hq : NoWordWrites i (s.evq.take (poppedBy (midiPerTick Config.block) ps.length s.evq))) :
    t.blk.param i = s.blk.param i := by
  induction h with
  | nil => rfl
  | cons tick _ ih =>
    obtain ⟨hfirst, hrest⟩ := hq.of_succ
    have hidx := ctick_idx_val tick
    have hevq := ctick_evq tick
    rw [State.present_blk] at hidx
    refine (ih (fun k hk => ?_) (hevq ▸ hrest)).trans ((ctick_writtenBy tick).param ?_ hfirst)
    · have hlater := hi (k + 1) (Nat.succ_lt_succ hk)
      omega
    · rintro rfl
      exact hi 0 (Nat.succ_pos _) (Nat.mod_eq_of_lt (Fin.isLt _))

/-- In a run of at most eight ticks, the tick whose index selects a parameter loads it for the rest of the run. -/
theorem ControlTicks.param_of_polled {i : Fin 8} {j : Nat} {p : Ports} {ps : List Ports} {s t : State}
    (h : ControlTicks ps s t) (hlen : ps.length ≤ 8) (hp : ps[j]? = some p) (hi : i.val = (s.blk.idx.val + j) % 8)
    (hq : NoWordWrites i (s.evq.take (poppedBy (midiPerTick Config.block) ps.length s.evq))) :
    t.blk.param i = mapParam Config.block i (p.adcAt i) := by
  induction h generalizing j with
  | nil => exact nomatch hp
  | @cons p' ps rest s u t tick run ih =>
    obtain ⟨hfirst, hrest⟩ := hq.of_succ
    have hidx := ctick_idx_val tick
    have hevq := ctick_evq tick
    rw [State.present_blk] at hidx
    rw [State.present_evq] at hevq
    rw [← hevq] at hrest
    rw [List.length_cons] at hlen
    cases j with
    | zero =>
      have hpoll : s.blk.idx = i := Fin.ext (by omega)
      obtain rfl : p' = p := Option.some.inj hp
      subst hpoll
      exact (run.param_of_unpolled (fun k hk => by omega) hrest).trans (ctick_param tick hfirst)
    | succ j => exact ih (by omega) hp (by omega) hrest

/-- Settles O15: eight ticks poll each index once. -/
theorem roundRobinLoadsEveryParameter : Obligations.RoundRobinLoadsEveryParameter := by
  intro s ps hlen hcmd
  obtain ⟨t, hrun, -, hticks⟩ := controlTicks_run hcmd
  rw [hlen] at hrun
  exact ⟨t, hrun, fun j i p hp hi hq => hticks.param_of_polled hlen.le hp hi (by rw [hlen]; exact hq)⟩

end Sys2Proof.Machine
end

section
/-! PROOFS. The idle block and the reset state (60_exceptions R370, 70_reset_and_hazards R380 to R382, R386). -/

namespace Sys2Proof.Machine

/-- Settles O7: with no command at the head of `cmd`, the step takes its idle branch. -/
theorem idleBlockHoldsItsState : Obligations.IdleBlockHoldsItsState := by
  intro s hcmd
  simp only [step, hcmd]

/-- Settles O51: it is the equation of RESET, with the reset values of every register written out. -/
theorem resetRestoresEveryRegister : Obligations.ResetRestoresEveryRegister := fun s => exec_reset s

/-- The two copies of the shared registers agree after reset (20_memory R83, 70_reset_and_hazards R380). -/
theorem Block.reset_committed (c : Config) : (Block.reset c).committed = (Block.reset c).shared := rfl

/-- The power-on state has the reset block (70_reset_and_hazards R382) and no word in `EVQ` (R386). -/
theorem State.reset_cleanLaunch : CleanLaunch State.reset := ⟨rfl, rfl⟩

/-- The power-on state meets the invariant; its queue and its list of samples are empty. -/
theorem State.reset_ok : State.reset.Ok where
  blk := Block.reset_ok
  agree := Block.reset_committed Config.block
  evq := List.forall_mem_nil _
  samples := List.forall_mem_nil _

/-- Settles O52: the launch premise, and the domains of the reset block with nothing yet queued or sampled. -/
theorem resetMeetsTheDomains : Obligations.ResetMeetsTheDomains := ⟨State.reset_cleanLaunch, State.reset_ok⟩

end Sys2Proof.Machine
end
